-- ==== Sys2Proof/Word.lean ====
section
/-! DEFINITION. The word types of the core: bytes, 16-bit words, and register numbers. -/

namespace Sys2Proof

/-- One byte: a general register, a timer, an RPL flag, a byte of RAM (10_state.md R20, R30, R35). -/
abbrev Byte := BitVec 8

/-- Sixteen bits: an instruction word, `pc`, `I`, a stack entry (10_state.md R22, R23, R26; 30_encoding.md R91). -/
abbrev Word := BitVec 16

/-- The number of a general register, 0 to 15 (10_state.md R20). -/
abbrev Reg := Fin 16

end Sys2Proof
end

