-- ==== Sys2Proof/Syntax.lean ====
section
/-! DEFINITION. The instructions: one constructor per row of spec/opcode_table.json (30_encoding.md R96), in the table's
order. Register fields are register numbers, `kk` a byte, `nnn` a 12-bit address, `n` a count (R94). -/

namespace Sys2Proof

inductive Instr where
  /-- `00CN` SCD n -/
  | scd (n : Nat)
  /-- `00E0` CLS -/
  | cls
  /-- `00EE` RET -/
  | ret
  /-- `00FB` SCR -/
  | scr
  /-- `00FC` SCL -/
  | scl
  /-- `00FD` EXIT -/
  | exit
  /-- `00FE` LOW -/
  | low
  /-- `00FF` HIGH -/
  | high
  /-- `1NNN` JP nnn -/
  | jp (nnn : BitVec 12)
  /-- `2NNN` CALL nnn -/
  | call (nnn : BitVec 12)
  /-- `3XKK` SE Vx, kk -/
  | seImm (x : Reg) (kk : Byte)
  /-- `4XKK` SNE Vx, kk -/
  | sneImm (x : Reg) (kk : Byte)
  /-- `5XY0` SE Vx, Vy -/
  | seReg (x y : Reg)
  /-- `6XKK` LD Vx, kk -/
  | ldImm (x : Reg) (kk : Byte)
  /-- `7XKK` ADD Vx, kk -/
  | addImm (x : Reg) (kk : Byte)
  /-- `8XY0` LD Vx, Vy -/
  | ldReg (x y : Reg)
  /-- `8XY1` OR Vx, Vy -/
  | orReg (x y : Reg)
  /-- `8XY2` AND Vx, Vy -/
  | andReg (x y : Reg)
  /-- `8XY3` XOR Vx, Vy -/
  | xorReg (x y : Reg)
  /-- `8XY4` ADD Vx, Vy -/
  | addReg (x y : Reg)
  /-- `8XY5` SUB Vx, Vy -/
  | sub (x y : Reg)
  /-- `8XY6` SHR Vx, Vy -/
  | shr (x y : Reg)
  /-- `8XY7` SUBN Vx, Vy -/
  | subn (x y : Reg)
  /-- `8XYE` SHL Vx, Vy -/
  | shl (x y : Reg)
  /-- `9XY0` SNE Vx, Vy -/
  | sneReg (x y : Reg)
  /-- `ANNN` LD I, nnn -/
  | ldI (nnn : BitVec 12)
  /-- `BNNN` JP V0, nnn -/
  | jpV0 (nnn : BitVec 12)
  /-- `CXKK` RND Vx, kk -/
  | rnd (x : Reg) (kk : Byte)
  /-- `DXYN` DRW Vx, Vy, n -/
  | drw (x y : Reg) (n : Nat)
  /-- `EX9E` SKP Vx -/
  | skp (x : Reg)
  /-- `EXA1` SKNP Vx -/
  | sknp (x : Reg)
  /-- `FX07` LD Vx, DT -/
  | ldVxDT (x : Reg)
  /-- `FX0A` LD Vx, K -/
  | ldVxK (x : Reg)
  /-- `FX15` LD DT, Vx -/
  | ldDTVx (x : Reg)
  /-- `FX18` LD ST, Vx -/
  | ldSTVx (x : Reg)
  /-- `FX1E` ADD I, Vx -/
  | addI (x : Reg)
  /-- `FX29` LD F, Vx -/
  | ldF (x : Reg)
  /-- `FX30` LD HF, Vx -/
  | ldHF (x : Reg)
  /-- `FX33` LD B, Vx -/
  | ldB (x : Reg)
  /-- `FX55` LD [I], Vx -/
  | storeRegs (x : Reg)
  /-- `FX65` LD Vx, [I] -/
  | loadRegs (x : Reg)
  /-- `FX75` LD R, Vx -/
  | storeRpl (x : Reg)
  /-- `FX85` LD Vx, R -/
  | loadRpl (x : Reg)
  deriving DecidableEq, Repr

end Sys2Proof
end

