-- ==== Sys2Proof/WellFormed.lean ====
section
/-! DEFINITION. When an instruction is one the encoding can hold. Registers, bytes and addresses are exact in their
types; the one operand whose type is wider than its field is the count `n` of SCD and DRW (30_encoding.md R92: 4 bits). -/

namespace Sys2Proof

/-- The count fits its field `w[3:0]` (R92, R94). -/
def countFits (n : Nat) : Bool := decide (n < 16)

def Instr.wellFormed : Instr → Bool
  | .scd n => countFits n
  | .cls => true
  | .ret => true
  | .scr => true
  | .scl => true
  | .exit => true
  | .low => true
  | .high => true
  | .jp _ => true
  | .call _ => true
  | .seImm _ _ => true
  | .sneImm _ _ => true
  | .seReg _ _ => true
  | .ldImm _ _ => true
  | .addImm _ _ => true
  | .ldReg _ _ => true
  | .orReg _ _ => true
  | .andReg _ _ => true
  | .xorReg _ _ => true
  | .addReg _ _ => true
  | .sub _ _ => true
  | .shr _ _ => true
  | .subn _ _ => true
  | .shl _ _ => true
  | .sneReg _ _ => true
  | .ldI _ => true
  | .jpV0 _ => true
  | .rnd _ _ => true
  | .drw _ _ n => countFits n
  | .skp _ => true
  | .sknp _ => true
  | .ldVxDT _ => true
  | .ldVxK _ => true
  | .ldDTVx _ => true
  | .ldSTVx _ => true
  | .addI _ => true
  | .ldF _ => true
  | .ldHF _ => true
  | .ldB _ => true
  | .storeRegs _ => true
  | .loadRegs _ => true
  | .storeRpl _ => true
  | .loadRpl _ => true

end Sys2Proof
end

