-- ==== Sys2Proof/Decode.lean ====
section
/-! DEFINITION. The encoding (30_encoding.md): the fields of a word (R92), the formats (R93), decoding by the top nibble
and a sub-opcode (R95), the encoder, and the opcode map as mask and match (R96). Decoding depends on the word alone. -/

namespace Sys2Proof

/-! ## Fields of a word (R92) -/

/-- `op = w[15:12]` -/
def fieldOp (w : Word) : BitVec 4 := w.extractLsb' 12 4

/-- `x = w[11:8]`, a register number -/
def fieldX (w : Word) : Reg := (w.extractLsb' 8 4).toFin

/-- `y = w[7:4]`, a register number -/
def fieldY (w : Word) : Reg := (w.extractLsb' 4 4).toFin

/-- `n = w[3:0]` as a sub-opcode -/
def fieldN (w : Word) : BitVec 4 := w.extractLsb' 0 4

/-- `kk = w[7:0]` -/
def fieldKK (w : Word) : Byte := w.extractLsb' 0 8

/-- `nnn = w[11:0]` -/
def fieldNNN (w : Word) : BitVec 12 := w.extractLsb' 0 12

/-- A register number as its field's four bits. -/
def nib (x : Reg) : BitVec 4 := BitVec.ofFin x

/-- The byte-order helpers of an instruction word: the high byte comes first (R66, R91). -/
def bigEndian (hi lo : Byte) : Word := hi ++ lo

def highByte (w : Word) : Byte := w.extractLsb' 8 8

def lowByte (w : Word) : Byte := w.extractLsb' 0 8

/-! ## Formats (R93) -/

/-- `FA`: `oNNN` -/
def formatFA (op : BitVec 4) (nnn : BitVec 12) : Word := op ++ nnn

/-- `FXK`: `oXKK`. The format `FX`, `oXss`, is this one with a fixed byte. -/
def formatFXK (op : BitVec 4) (x : Reg) (kk : Byte) : Word := op ++ nib x ++ kk

/-- `FXYN`: `oXYN`. The format `FXY`, `oXYs`, is this one with a fixed nibble. -/
def formatFXYN (op : BitVec 4) (x y : Reg) (n : BitVec 4) : Word := op ++ nib x ++ nib y ++ n

/-- `FN`: `00CN` -/
def formatFN (n : Nat) : Word := (0x00C#12) ++ BitVec.ofNat 4 n

/-! ## Decoding (R95, R96, R97) -/

/-- Op 0: the sub-opcode is `w[11:0]`; the words not listed are illegal (R99). -/
def decode0 (w : Word) : Option Instr :=
  if w.extractLsb' 4 12 = 0x00C#12 then some (.scd (fieldN w).toNat)
  else if w = 0x00E0 then some .cls
  else if w = 0x00EE then some .ret
  else if w = 0x00FB then some .scr
  else if w = 0x00FC then some .scl
  else if w = 0x00FD then some .exit
  else if w = 0x00FE then some .low
  else if w = 0x00FF then some .high
  else none

/-- Op 8: the sub-opcode is `n`. -/
def decode8 (x y : Reg) (n : BitVec 4) : Option Instr :=
  match n with
  | 0x0#4 => some (.ldReg x y)
  | 0x1#4 => some (.orReg x y)
  | 0x2#4 => some (.andReg x y)
  | 0x3#4 => some (.xorReg x y)
  | 0x4#4 => some (.addReg x y)
  | 0x5#4 => some (.sub x y)
  | 0x6#4 => some (.shr x y)
  | 0x7#4 => some (.subn x y)
  | 0xE#4 => some (.shl x y)
  | _ => none

/-- Op E: the sub-opcode is `kk`. -/
def decodeE (x : Reg) (kk : Byte) : Option Instr :=
  match kk with
  | 0x9E#8 => some (.skp x)
  | 0xA1#8 => some (.sknp x)
  | _ => none

/-- Op F: the sub-opcode is `kk`. -/
def decodeF (x : Reg) (kk : Byte) : Option Instr :=
  match kk with
  | 0x07#8 => some (.ldVxDT x)
  | 0x0A#8 => some (.ldVxK x)
  | 0x15#8 => some (.ldDTVx x)
  | 0x18#8 => some (.ldSTVx x)
  | 0x1E#8 => some (.addI x)
  | 0x29#8 => some (.ldF x)
  | 0x30#8 => some (.ldHF x)
  | 0x33#8 => some (.ldB x)
  | 0x55#8 => some (.storeRegs x)
  | 0x65#8 => some (.loadRegs x)
  | 0x75#8 => some (.storeRpl x)
  | 0x85#8 => some (.loadRpl x)
  | _ => none

/-- The instruction of a word; `none` for an illegal word (R98, R100). Every fixed nibble must match (R97). -/
def decode (w : Word) : Option Instr :=
  match fieldOp w with
  | 0x0#4 => decode0 w
  | 0x1#4 => some (.jp (fieldNNN w))
  | 0x2#4 => some (.call (fieldNNN w))
  | 0x3#4 => some (.seImm (fieldX w) (fieldKK w))
  | 0x4#4 => some (.sneImm (fieldX w) (fieldKK w))
  | 0x5#4 => if fieldN w = 0 then some (.seReg (fieldX w) (fieldY w)) else none
  | 0x6#4 => some (.ldImm (fieldX w) (fieldKK w))
  | 0x7#4 => some (.addImm (fieldX w) (fieldKK w))
  | 0x8#4 => decode8 (fieldX w) (fieldY w) (fieldN w)
  | 0x9#4 => if fieldN w = 0 then some (.sneReg (fieldX w) (fieldY w)) else none
  | 0xA#4 => some (.ldI (fieldNNN w))
  | 0xB#4 => some (.jpV0 (fieldNNN w))
  | 0xC#4 => some (.rnd (fieldX w) (fieldKK w))
  | 0xD#4 => some (.drw (fieldX w) (fieldY w) (fieldN w).toNat)
  | 0xE#4 => decodeE (fieldX w) (fieldKK w)
  | 0xF#4 => decodeF (fieldX w) (fieldKK w)
  | _ => none

/-- What reading one instruction from bytes answers. -/
inductive DecodeResult where
  /-- an instruction, and the bytes after its two -/
  | ok (i : Instr) (rest : List Byte)
  /-- the word matches no row of R96 (R98) -/
  | unknownOpcode (w : Word)
  /-- fewer than two bytes: every instruction is one 16-bit word (R91) -/
  | truncated
  deriving DecidableEq, Repr

/-- Reads one instruction from bytes, the high byte first (R66). -/
def decodeBytes : List Byte → DecodeResult
  | hi :: lo :: rest =>
    match decode (bigEndian hi lo) with
    | some i => .ok i rest
    | none => .unknownOpcode (bigEndian hi lo)
  | [_] => .truncated
  | [] => .truncated

/-- The word of an opcode-table row given as a number: bits above `nbits` are 0. -/
def tableWord (nbits w : Nat) : Word := BitVec.ofNat 16 (w % 2 ^ nbits)

/-- The instruction the decoder reads from a table row's bits, laid out as the hardware stores them. -/
def decodeTableWord (nbits w : Nat) : Option Instr :=
  match decodeBytes [highByte (tableWord nbits w), lowByte (tableWord nbits w)] with
  | .ok i _ => some i
  | .unknownOpcode _ => none
  | .truncated => none

/-! ## Encoding (R93, R96) -/

/-- The word of an instruction. -/
def encode : Instr → Word
  | .scd n => formatFN n
  | .cls => 0x00E0
  | .ret => 0x00EE
  | .scr => 0x00FB
  | .scl => 0x00FC
  | .exit => 0x00FD
  | .low => 0x00FE
  | .high => 0x00FF
  | .jp nnn => formatFA 0x1 nnn
  | .call nnn => formatFA 0x2 nnn
  | .seImm x kk => formatFXK 0x3 x kk
  | .sneImm x kk => formatFXK 0x4 x kk
  | .seReg x y => formatFXYN 0x5 x y 0x0
  | .ldImm x kk => formatFXK 0x6 x kk
  | .addImm x kk => formatFXK 0x7 x kk
  | .ldReg x y => formatFXYN 0x8 x y 0x0
  | .orReg x y => formatFXYN 0x8 x y 0x1
  | .andReg x y => formatFXYN 0x8 x y 0x2
  | .xorReg x y => formatFXYN 0x8 x y 0x3
  | .addReg x y => formatFXYN 0x8 x y 0x4
  | .sub x y => formatFXYN 0x8 x y 0x5
  | .shr x y => formatFXYN 0x8 x y 0x6
  | .subn x y => formatFXYN 0x8 x y 0x7
  | .shl x y => formatFXYN 0x8 x y 0xE
  | .sneReg x y => formatFXYN 0x9 x y 0x0
  | .ldI nnn => formatFA 0xA nnn
  | .jpV0 nnn => formatFA 0xB nnn
  | .rnd x kk => formatFXK 0xC x kk
  | .drw x y n => formatFXYN 0xD x y (BitVec.ofNat 4 n)
  | .skp x => formatFXK 0xE x 0x9E
  | .sknp x => formatFXK 0xE x 0xA1
  | .ldVxDT x => formatFXK 0xF x 0x07
  | .ldVxK x => formatFXK 0xF x 0x0A
  | .ldDTVx x => formatFXK 0xF x 0x15
  | .ldSTVx x => formatFXK 0xF x 0x18
  | .addI x => formatFXK 0xF x 0x1E
  | .ldF x => formatFXK 0xF x 0x29
  | .ldHF x => formatFXK 0xF x 0x30
  | .ldB x => formatFXK 0xF x 0x33
  | .storeRegs x => formatFXK 0xF x 0x55
  | .loadRegs x => formatFXK 0xF x 0x65
  | .storeRpl x => formatFXK 0xF x 0x75
  | .loadRpl x => formatFXK 0xF x 0x85

/-! ## The opcode map (R96) -/

/-- One row of the map: a word `w` selects it when `w &&& mask = pattern`. -/
structure OpcodeRow where
  mask : Word
  pattern : Word
  deriving DecidableEq, Repr

/-- The word selects the row (R96). -/
def OpcodeRow.selects (r : OpcodeRow) (w : Word) : Bool := decide (w &&& r.mask = r.pattern)

/-- The row of an instruction, mask and match as R96 lists them. -/
def opcodeRow : Instr → OpcodeRow
  | .scd _ => ⟨0xFFF0, 0x00C0⟩
  | .cls => ⟨0xFFFF, 0x00E0⟩
  | .ret => ⟨0xFFFF, 0x00EE⟩
  | .scr => ⟨0xFFFF, 0x00FB⟩
  | .scl => ⟨0xFFFF, 0x00FC⟩
  | .exit => ⟨0xFFFF, 0x00FD⟩
  | .low => ⟨0xFFFF, 0x00FE⟩
  | .high => ⟨0xFFFF, 0x00FF⟩
  | .jp _ => ⟨0xF000, 0x1000⟩
  | .call _ => ⟨0xF000, 0x2000⟩
  | .seImm _ _ => ⟨0xF000, 0x3000⟩
  | .sneImm _ _ => ⟨0xF000, 0x4000⟩
  | .seReg _ _ => ⟨0xF00F, 0x5000⟩
  | .ldImm _ _ => ⟨0xF000, 0x6000⟩
  | .addImm _ _ => ⟨0xF000, 0x7000⟩
  | .ldReg _ _ => ⟨0xF00F, 0x8000⟩
  | .orReg _ _ => ⟨0xF00F, 0x8001⟩
  | .andReg _ _ => ⟨0xF00F, 0x8002⟩
  | .xorReg _ _ => ⟨0xF00F, 0x8003⟩
  | .addReg _ _ => ⟨0xF00F, 0x8004⟩
  | .sub _ _ => ⟨0xF00F, 0x8005⟩
  | .shr _ _ => ⟨0xF00F, 0x8006⟩
  | .subn _ _ => ⟨0xF00F, 0x8007⟩
  | .shl _ _ => ⟨0xF00F, 0x800E⟩
  | .sneReg _ _ => ⟨0xF00F, 0x9000⟩
  | .ldI _ => ⟨0xF000, 0xA000⟩
  | .jpV0 _ => ⟨0xF000, 0xB000⟩
  | .rnd _ _ => ⟨0xF000, 0xC000⟩
  | .drw _ _ _ => ⟨0xF000, 0xD000⟩
  | .skp _ => ⟨0xF0FF, 0xE09E⟩
  | .sknp _ => ⟨0xF0FF, 0xE0A1⟩
  | .ldVxDT _ => ⟨0xF0FF, 0xF007⟩
  | .ldVxK _ => ⟨0xF0FF, 0xF00A⟩
  | .ldDTVx _ => ⟨0xF0FF, 0xF015⟩
  | .ldSTVx _ => ⟨0xF0FF, 0xF018⟩
  | .addI _ => ⟨0xF0FF, 0xF01E⟩
  | .ldF _ => ⟨0xF0FF, 0xF029⟩
  | .ldHF _ => ⟨0xF0FF, 0xF030⟩
  | .ldB _ => ⟨0xF0FF, 0xF033⟩
  | .storeRegs _ => ⟨0xF0FF, 0xF055⟩
  | .loadRegs _ => ⟨0xF0FF, 0xF065⟩
  | .storeRpl _ => ⟨0xF0FF, 0xF075⟩
  | .loadRpl _ => ⟨0xF0FF, 0xF085⟩

end Sys2Proof
end

