-- ==== Sys2Proof/Config.lean ====
section
/-! DEFINITION. The fixed sizes of the core (00_scope.md R6), the parameters the spec decides (R7), the parameters it
leaves open (`Params`), and the two values it leaves free. -/

namespace Sys2Proof

namespace Config

/-- `RAM_SIZE` (R6). -/
def ramSize : Nat := 4096

/-- `PROGRAM_START` (R6): where the ROM lies and where execution begins. -/
def programStart : Nat := 0x200

/-- `ROM_MAX` (R6): the most bytes a ROM may have. -/
def romMax : Nat := 3584

/-- `FONT_LO_STRIDE` (R6): bytes per low-resolution glyph. -/
def fontLoStride : Nat := 5

/-- `FONT_HI_STRIDE` (R6): bytes per high-resolution glyph. -/
def fontHiStride : Nat := 10

/-- `FONT_LO_BASE` (R7, D13). -/
def fontLoBase : Nat := 0x000

/-- `FONT_HI_BASE` (R7, D13). -/
def fontHiBase : Nat := 0x050

/-- `FONT_HI_COUNT` (R7, D15). -/
def fontHiCount : Nat := 16

/-- `CANVAS_H` (R7, D16). -/
def canvasH : Nat := 64

/-- `LORES_W` (R7, D16). -/
def loresW : Nat := 64

/-- `LORES_H` (R7, D16). -/
def loresH : Nat := 32

/-- FREE VALUE. The `n`-th byte the `RNG` oracle gives (60_exceptions.md R283): any byte, so it has no body (log 6). -/
opaque rngByte : Nat → Byte

/-- FREE VALUE. Byte `j` of `FONT_HI_DATA`, which the spec leaves `OPEN` with no default (20_memory.md R64), so it has no
body (log 4). -/
opaque fontHiByte : Nat → Byte

end Config

/-- `CANVAS_W` is `OPEN`, one of 128 and 132 (R7, D16). -/
inductive CanvasWidth where
  | w128
  | w132
  deriving DecidableEq, Repr

/-- `SHIFT_VARIANT` (R7; 41_alu.md R170). -/
inductive ShiftVariant where
  | inPlace
  | legacy
  deriving DecidableEq, Repr

/-- The parameters R7 and R41 leave open. They are not architectural state: a state carries them unchanged, because
`exec` and `step` take no other argument (log 1). -/
structure Params where
  /-- `CANVAS_W` -/
  canvas : CanvasWidth
  /-- `SHIFT_VARIANT` -/
  shift : ShiftVariant
  /-- `FONT_LO_DATA` -/
  fontLo : Vector Byte 80
  /-- `FONT_DIGIT_MASK` -/
  digitMask : Byte
  deriving DecidableEq, Repr

/-- `CANVAS_W` as a number of columns. -/
def Params.canvasW (p : Params) : Nat :=
  match p.canvas with
  | .w128 => 128
  | .w132 => 132

end Sys2Proof
end

