-- ==== Sys2Proof/Machine/Event.lean ====
section
/-! DEFINITION. The host's events (60_exceptions.md R270), and the sequence, without end, in which the host delivers them
(log 7). -/

namespace Sys2Proof

/-- The five events of R270. -/
inductive Machine.Event where
  | cycle
  | tick
  | keySnapshot (keys : Vector Bool 16)
  | drawAck
  | resetReq
  deriving DecidableEq, Repr, Inhabited

/-- FREE VALUE. The `n`-th event of a host that may deliver any sequence whatever: R270 leaves their order and number free,
so it has no body (log 7). -/
opaque Config.hostEvent : Nat → Machine.Event

namespace Machine

/-- The events after the first ones of a schedule, without end. -/
inductive Onward where
  /-- `e`, then the events `es`, then `e` again, and so on for ever -/
  | repeating (e : Event) (es : List Event)
  /-- the free sequence, from its `n`-th event on -/
  | free (n : Nat)
  deriving DecidableEq, Repr

def Onward.due : Onward → Event
  | .repeating e _ => e
  | .free n => Config.hostEvent n

def Onward.rest : Onward → Onward
  | .repeating e [] => .repeating e []
  | .repeating e (f :: fs) => .repeating f (fs ++ [e])
  | .free n => .free (n + 1)

/-- The events the host delivers: some first ones, oldest first, then those of `onward`. It never ends; a run that stops
after finitely many events (R286) is the beginning of one. -/
structure Schedule where
  first : List Event
  onward : Onward
  deriving DecidableEq, Repr

/-- The event due next. -/
def Schedule.due (es : Schedule) : Event :=
  match es.first with
  | [] => es.onward.due
  | e :: _ => e

/-- The events after that one. -/
def Schedule.rest (es : Schedule) : Schedule :=
  match es.first with
  | [] => ⟨[], es.onward.rest⟩
  | _ :: first => ⟨first, es.onward⟩

/-- Some events, then a `Cycle` for ever. -/
def Schedule.thenCycles (first : List Event) : Schedule := ⟨first, .repeating .cycle []⟩

/-- A `Cycle` for ever. -/
def Schedule.cycles : Schedule := .thenCycles []

/-- One event for ever. -/
def Schedule.always (e : Event) : Schedule := ⟨[], .repeating e []⟩

end Machine

end Sys2Proof
end

