-- ==== Sys2Proof/Machine/Fonts.lean ====
section
/-! DEFINITION. The default low-resolution font (20_memory.md R64) and the default parameters (00_scope.md R7). -/

namespace Sys2Proof.Machine

/-- The default `FONT_LO_DATA`: the conventional CHIP-8 font of R64, five bytes a glyph, glyphs 0 to F. The spec marks
these bytes as general knowledge; every statement holds for any other 80 bytes too (log 3). PRESUMED. -/
def defaultFontLo : Vector Byte 80 := #v[
  0xF0, 0x90, 0x90, 0x90, 0xF0,
  0x20, 0x60, 0x20, 0x20, 0x70,
  0xF0, 0x10, 0xF0, 0x80, 0xF0,
  0xF0, 0x10, 0xF0, 0x10, 0xF0,
  0x90, 0x90, 0xF0, 0x10, 0x10,
  0xF0, 0x80, 0xF0, 0x10, 0xF0,
  0xF0, 0x80, 0xF0, 0x90, 0xF0,
  0xF0, 0x10, 0x20, 0x40, 0x40,
  0xF0, 0x90, 0xF0, 0x90, 0xF0,
  0xF0, 0x90, 0xF0, 0x10, 0xF0,
  0xF0, 0x90, 0xF0, 0x90, 0x90,
  0xE0, 0x90, 0xE0, 0x90, 0xE0,
  0xF0, 0x80, 0x80, 0x80, 0xF0,
  0xE0, 0x90, 0x90, 0x90, 0xE0,
  0xF0, 0x80, 0xF0, 0x80, 0xF0,
  0xF0, 0x80, 0xF0, 0x80, 0x80]

/-- The defaults of R7: width 128, shifts in place, the font of R64, no digit mask (logs 2, 3, 5). DESIGN CHOICE. -/
def defaultParams : Params where
  canvas := .w128
  shift := .inPlace
  fontLo := defaultFontLo
  digitMask := 0xFF

end Sys2Proof.Machine
end

