-- ==== Sys2Proof/Machine/State.lean ====
section
/-! DEFINITION. The architectural state (10_state.md), the reasons a step can stop, and the state after reset. -/

namespace Sys2Proof.Machine

/-- `MODE` (R33). -/
inductive Mode where
  | standard
  | super
  deriving DecidableEq, Repr

/-- The fault causes (60_exceptions.md R271). -/
inductive FaultCause where
  /-- fetch at `pc = 0xFFF` (20_memory.md R68) -/
  | fetchOutOfRange
  /-- a word matching no row of the opcode map (30_encoding.md R98) -/
  | unknownOpcode
  /-- FX33, FX55, FX65 or DXYN touching an address at or above 0x1000 (20_memory.md R70) -/
  | memOutOfRange
  /-- EX9E or EXA1 with `V[x] > 15` (43_timers_input.md R224, R225) -/
  | keyOutOfRange
  deriving DecidableEq, Repr

/-- The fault record `Fault(cause, w, addr, info)` (R38, R271). -/
structure FaultRecord where
  cause : FaultCause
  /-- the instruction word, or none where the fetch itself faulted -/
  word : Option Word
  /-- the pc of the faulting instruction -/
  addr : Word
  info : Word
  deriving DecidableEq, Repr

/-- One byte of memory at an address. The list is in one canonical form (Machine/Memory.lean). -/
abbrev Memory := List Host.Cell

/-- A frame-buffer cell: column `x`, row `y` (R32). -/
abbrev Pixel := Nat × Nat

/-- The frame buffer as the list of its set cells, in row order (Machine/FrameBuffer.lean); a cell not listed is unset. -/
abbrev FrameBuffer := List Pixel

/-- What the host takes with a `DrawAck` (R281). -/
structure Frame where
  mode : Mode
  fb : FrameBuffer
  deriving DecidableEq, Repr

/-- The state: the record at the head of 10_state.md, then the model's own fields. -/
structure State where
  /-- `V[0..15]` (R20) -/
  v : Vector Byte 16
  /-- `I` (R22) -/
  i : Word
  /-- `pc` (R23) -/
  pc : Word
  /-- `STACK[0..15]` (R26) -/
  stack : Vector Word 16
  /-- `SP` (R26) -/
  sp : Fin 16
  /-- `DT` (R30) -/
  dt : Byte
  /-- `ST` (R31) -/
  st : Byte
  /-- `FB` (R32) -/
  fb : FrameBuffer
  /-- `MODE` (R33) -/
  mode : Mode
  /-- `KEY[0..15]` (R34) -/
  key : Vector Bool 16
  /-- `RPL[0..7]` (R35) -/
  rpl : Vector Byte 8
  /-- `DRAW` (R36) -/
  draw : Bool
  /-- `ROM_CACHE` (R37) -/
  romCache : List Byte
  /-- `FAULT` (R38) -/
  fault : Option FaultRecord
  /-- `MEM[0..4095]` (R60) -/
  mem : Memory
  /-- the MODEL's own: the open parameters of R7, which nothing changes (log 1) -/
  params : Params
  /-- the MODEL's own: how many bytes the `RNG` oracle has given (R283, log 6) -/
  rngDraws : Nat
  /-- the MODEL's own: the host events to come (R270, log 7) -/
  schedule : Schedule
  /-- the MODEL's own: what the host took at its last `DrawAck` (R281, log 10) -/
  frameTaken : Option Frame
  /-- the MODEL's own: the sound gate as last sampled after a `Tick` (R282, log 10) -/
  gateSampled : Option Bool
  deriving DecidableEq, Repr

/-- Why the machine stops. -/
inductive Fault where
  /-- Raised by the events `Cycle`, `Tick` and `ResetReq` when one is due on a core whose `FAULT` is set: none of them is
  enabled there, and nothing clears `FAULT` (R272). Safe: the core has stopped for good. -/
  | stopped (r : FaultRecord)
  deriving DecidableEq, Repr

/-- Why there is no meaning. -/
inductive Refusal where
  /-- Raised by no arm of `exec`: every instruction has its meaning. Safe. -/
  | notModelled (mnemonic : String)
  /-- Raised by the event `DrawAck` while `DRAW` is false, where it is not enabled (R270), so that no run of the core holds
  it (log 9). Safe. -/
  | drawAckNotEnabled
  /-- Raised by `loadRom` for a ROM of more than 3584 bytes: a load fault, no core is built (R303, log 13). Safe. -/
  | romTooLarge (bytes : Nat)
  deriving DecidableEq, Repr

/-- The machine right after reset with no ROM loaded (R42, R63; log 12): memory lists nothing, so every address reads as
its reset contents. -/
def State.reset : State where
  v := Vector.replicate 16 0
  i := 0
  pc := BitVec.ofNat 16 Config.programStart
  stack := Vector.replicate 16 0
  sp := 0
  dt := 0
  st := 0
  fb := []
  mode := .standard
  key := Vector.replicate 16 false
  rpl := Vector.replicate 8 0
  draw := false
  romCache := []
  fault := none
  mem := []
  params := defaultParams
  rngDraws := 0
  schedule := .cycles
  frameTaken := none
  gateSampled := none

end Sys2Proof.Machine
end

