-- ==== Sys2Proof/Machine/FrameBuffer.lean ====
section
/-! DEFINITION. The frame buffer (10_state.md R32): the canonical list of its set cells, and the operations of the screen
instructions over it (44_display.md). -/

namespace Sys2Proof.Machine

/-- `FB[x][y]`, for the cell `(x, y)`. -/
def FrameBuffer.lit (fb : FrameBuffer) (c : Pixel) : Bool := fb.contains c

/-- Row order: upper rows first, then from the left. -/
def Pixel.before (a b : Pixel) : Bool := decide (a.2 < b.2 ∨ (a.2 = b.2 ∧ a.1 < b.1))

/-- Puts a cell at its place in row order. -/
def FrameBuffer.insert (c : Pixel) : FrameBuffer → FrameBuffer
  | [] => [c]
  | d :: fb => if Pixel.before c d then c :: d :: fb else d :: FrameBuffer.insert c fb

/-- `FB[x][y] <- not FB[x][y]` -/
def FrameBuffer.toggle (fb : FrameBuffer) (c : Pixel) : FrameBuffer :=
  if fb.lit c then fb.filter (fun d => d != c) else FrameBuffer.insert c fb

/-- The cells stand in strict row order. -/
def FrameBuffer.ordered : FrameBuffer → Bool
  | [] => true
  | [_] => true
  | c :: d :: fb => Pixel.before c d && FrameBuffer.ordered (d :: fb)

/-- The canonical form: strict row order, every cell inside a canvas `w` cells wide and `CANVAS_H` high. -/
def FrameBuffer.wf (w : Nat) (fb : FrameBuffer) : Bool :=
  FrameBuffer.ordered fb && fb.all (fun c => decide (c.1 < w) && decide (c.2 < Config.canvasH))

/-- Every cell `n` rows down; rows pushed off the bottom are lost (R241). -/
def FrameBuffer.down (n : Nat) (fb : FrameBuffer) : FrameBuffer :=
  fb.filterMap fun c => if c.2 + n < Config.canvasH then some (c.1, c.2 + n) else none

/-- Every cell `k` columns right; columns pushed off the right edge are lost (R242). -/
def FrameBuffer.right (w k : Nat) (fb : FrameBuffer) : FrameBuffer :=
  fb.filterMap fun c => if c.1 + k < w then some (c.1 + k, c.2) else none

/-- Every cell `k` columns left; columns 0 to `k - 1` are lost (R243). -/
def FrameBuffer.left (w k : Nat) (fb : FrameBuffer) : FrameBuffer :=
  fb.filterMap fun c => if k ≤ c.1 ∧ c.1 < w then some (c.1 - k, c.2) else none

end Sys2Proof.Machine
end

