-- ==== Sys2Proof/Machine/Memory.lean ====
section
/-! DEFINITION. RAM (20_memory.md): the reset contents (R63), the canonical list of the bytes that differ from them, and
reading, writing and loading it. -/

namespace Sys2Proof.Machine

/-- What an address that memory does not list reads as: the reset contents before the ROM (R63, R65): the two fonts, and
zero elsewhere. -/
def unlistedByte (p : Params) (a : Nat) : Byte :=
  if h : Config.fontLoBase ≤ a ∧ a < Config.fontLoBase + 80 then
    p.fontLo[a - Config.fontLoBase]'(by omega)
  else if Config.fontHiBase ≤ a ∧ a < Config.fontHiBase + Config.fontHiStride * Config.fontHiCount then
    Config.fontHiByte (a - Config.fontHiBase)
  else 0

/-- The byte at an address. -/
def Memory.read (p : Params) (m : Memory) (a : Nat) : Byte :=
  match m.find? (fun c => c.1 == a) with
  | some c => c.2
  | none => unlistedByte p a

/-- Puts a cell at its place in a list of rising addresses. -/
def Memory.insert (c : Host.Cell) : Memory → Memory
  | [] => [c]
  | d :: m => if c.1 < d.1 then c :: d :: m else d :: Memory.insert c m

/-- Stores a byte. Writing what an unlisted address reads as removes the entry, which keeps the form canonical. -/
def Memory.write (p : Params) (m : Memory) (a : Nat) (b : Byte) : Memory :=
  if b = unlistedByte p a then m.filter (fun c => c.1 != a)
  else Memory.insert (a, b) (m.filter (fun c => c.1 != a))

/-- The addresses rise strictly. -/
def Memory.rising : Memory → Bool
  | [] => true
  | [_] => true
  | c :: d :: m => decide (c.1 < d.1) && Memory.rising (d :: m)

/-- The canonical form: rising addresses inside RAM, and no entry equal to what an unlisted address reads as. -/
def Memory.wf (p : Params) (m : Memory) : Bool :=
  Memory.rising m && m.all (fun c => decide (c.1 < Config.ramSize) && decide (c.2 ≠ unlistedByte p c.1))

/-- The last line of R63: the ROM's bytes from `PROGRAM_START` on, in the canonical form. -/
def romCells (p : Params) (rom : List Byte) : Memory :=
  (rom.zipIdx Config.programStart).filterMap fun c => if c.1 = unlistedByte p c.2 then none else some (c.2, c.1)

end Sys2Proof.Machine
end

