-- ==== Sys2Proof/Machine/Ops.lean ====
section
/-! DEFINITION. The named operations over the state: one setter per field, the primitives of 00_scope.md R10, raising a
fault, and reset. -/

namespace Sys2Proof.Machine

/-- What a meaning answers. -/
abbrev Result := Host.Outcome State Fault Refusal

/-! ## Setters -/

/-- `V[x] <- b` -/
def State.setReg (s : State) (x : Reg) (b : Byte) : State := { s with v := s.v.set x.val b }

/-- `I <- a` -/
def State.setIndex (s : State) (a : Word) : State := { s with i := a }

/-- `pc <- a` -/
def State.setPc (s : State) (a : Word) : State := { s with pc := a }

/-- `STACK[k] <- a` -/
def State.setStack (s : State) (k : Fin 16) (a : Word) : State := { s with stack := s.stack.set k.val a }

/-- `SP <- k` -/
def State.setSp (s : State) (k : Fin 16) : State := { s with sp := k }

/-- `DT <- b` -/
def State.setDt (s : State) (b : Byte) : State := { s with dt := b }

/-- `ST <- b` -/
def State.setSt (s : State) (b : Byte) : State := { s with st := b }

/-- `FB <- fb` -/
def State.setFb (s : State) (fb : FrameBuffer) : State := { s with fb := fb }

/-- `MODE <- m` -/
def State.setMode (s : State) (m : Mode) : State := { s with mode := m }

/-- `KEY <- k` -/
def State.setKey (s : State) (k : Vector Bool 16) : State := { s with key := k }

/-- `RPL[k] <- b` -/
def State.setRpl (s : State) (k : Fin 8) (b : Byte) : State := { s with rpl := s.rpl.set k.val b }

/-- `DRAW <- b` -/
def State.setDraw (s : State) (b : Bool) : State := { s with draw := b }

/-- `FAULT <- r` -/
def State.setFault (s : State) (r : FaultRecord) : State := { s with fault := some r }

/-- `MEM[a] <- b` -/
def State.setByte (s : State) (a : Nat) (b : Byte) : State := { s with mem := s.mem.write s.params a b }

/-- One byte of the `RNG` oracle has been drawn. -/
def State.countDraw (s : State) : State := { s with rngDraws := s.rngDraws + 1 }

/-- The events still to come. -/
def State.setSchedule (s : State) (es : Schedule) : State := { s with schedule := es }

/-- The host has taken a frame. -/
def State.setFrame (s : State) (f : Frame) : State := { s with frameTaken := some f }

/-- The host has sampled the sound gate. -/
def State.setGate (s : State) (b : Bool) : State := { s with gateSampled := some b }

/-! ## Reading -/

/-- `V[x]` -/
def State.reg (s : State) (x : Reg) : Byte := s.v[x.val]

/-- `MEM[a]`; used for addresses up to 0xFFF, which every use checks first (R61, R70). -/
def State.byte (s : State) (a : Nat) : Byte := s.mem.read s.params a

/-- `KEY[k]` -/
def State.keyDown (s : State) (k : Fin 16) : Bool := s.key[k.val]

/-! ## The program counter and the stack -/

/-- The 12-bit mask of `pc` and `I` (R23, R24). -/
def mask12 (a : Word) : Word := a &&& 0xFFF

/-- `advance(k)` (R24). -/
def State.advance (s : State) (k : Word) : State := s.setPc (mask12 (s.pc + k))

/-- `push(v)` (R27). -/
def State.push (s : State) (a : Word) : State := (s.setStack s.sp a).setSp (s.sp + 1)

/-- The entry `pop()` returns (R28). -/
def State.popValue (s : State) : Word := s.stack[(s.sp - 1).val]

/-- What `pop()` does to `SP` (R28); the entry stays. -/
def State.popped (s : State) : State := s.setSp (s.sp - 1)

/-- The end of an ordinary instruction: `advance(2)` (R12, R25). -/
def finish (s : State) : Result := .next (s.advance 2)

/-- The end of a skip: `advance(4)` when the condition holds, else `advance(2)` (R25). -/
def skipIf (c : Bool) (s : State) : Result := .next (s.advance (if c then 4 else 2))

/-! ## Faults -/

/-- TAKING A FAULT: `raise Fault(cause, info)` (R271, R272, R273). It records the cause, the instruction word, the pc and
the cause's value in `FAULT`; the rest of the state is as before the cycle. There is no return from it (R277). -/
def raise (cause : FaultCause) (word : Option Word) (info : Word) (s : State) : Result :=
  .next (s.setFault ⟨cause, word, s.pc, info⟩)

/-- An instruction that accesses RAM up to the address `last`: the check comes before any change (R70). -/
def withinRam (i : Instr) (last : Nat) (s : State) (body : Result) : Result :=
  if last > 0xFFF then raise .memOutOfRange (some (encode i)) 0x1000 s else body

/-! ## Reset -/

/-- `Reset()` (70_reset_and_hazards.md R300): every piece of the spec's state at its reset value (R42), RAM rebuilt from
the fonts and `ROM_CACHE` (R63), `ROM_CACHE` kept. The model's own fields stay: the parameters, the oracle's count, the
events still to come and what the host holds (log 11). -/
def State.restart (s : State) : State :=
  { State.reset with
    romCache := s.romCache
    mem := romCells s.params s.romCache
    params := s.params
    rngDraws := s.rngDraws
    schedule := s.schedule
    frameTaken := s.frameTaken
    gateSampled := s.gateSampled }

/-- The ROM load before the first `Cycle` (R303): sets `ROM_CACHE` and performs `Reset()`; a ROM of more than 3584 bytes
builds no core (log 13). -/
def loadRom (rom : List Byte) (s : State) : Result :=
  if rom.length ≤ Config.romMax then .next { s with romCache := rom }.restart
  else .refused (.romTooLarge rom.length)

end Sys2Proof.Machine
end

