-- ==== Sys2Proof/Machine/Operands.lean ====
section
/-! DEFINITION. Operand forms: immediates and addresses as values (30_encoding.md R94), the one addressing mode `I + k`
(42_index_memory.md, head), the register ranges of the block transfers, and the key operands. -/

namespace Sys2Proof.Machine

/-- `nnn`, zero-extended to 16 bits (R94). -/
def address (nnn : BitVec 12) : Word := nnn.setWidth 16

/-- A byte register as a 16-bit value. -/
def wide (b : Byte) : Word := b.setWidth 16

/-- The address `I + k`, as an unbounded number (R9). -/
def State.indexed (s : State) (k : Nat) : Nat := s.i.toNat + k

/-- The byte at `I + k`. -/
def State.indexedByte (s : State) (k : Nat) : Byte := s.byte (s.indexed k)

/-- `V[0]` to `V[x]`, ascending (R196, R197). -/
def regsUpTo (x : Reg) : List Reg := (List.finRange 16).filter (fun k => decide (k ≤ x))

/-- `RPL[0]` to `RPL[min(x, 7)]`, ascending (R199, R200). -/
def rplUpTo (x : Reg) : List (Fin 8) := (List.finRange 8).filter (fun k => decide (k.val ≤ min x.val 7))

/-- The register of the same number as an RPL flag. -/
def rplReg (k : Fin 8) : Reg := k.castLE (by omega)

/-- The key numbered by a register value, if there is one (R224, R225). -/
def keyNumber (b : Byte) : Option (Fin 16) := if h : b.toNat < 16 then some ⟨b.toNat, h⟩ else none

/-- The lowest-indexed pressed key (R226). -/
def State.lowestKey (s : State) : Option (Fin 16) := (List.finRange 16).find? (fun k => s.keyDown k)

/-- A key's number as a register value. -/
def keyByte (k : Fin 16) : Byte := BitVec.ofNat 8 k.val

end Sys2Proof.Machine
end

