-- ==== Sys2Proof/Machine/Flags.lean ====
section
/-! DEFINITION. The flag `VF` (10_state.md R39): every computation of it, and writing it after the result (R181). -/

namespace Sys2Proof.Machine

/-- `VF` is `V[15]` (R21). -/
abbrev vf : Reg := 15

/-- A flag as the byte 0 or 1. -/
def flagByte (b : Bool) : Byte := if b then 1 else 0

/-- Carry out of an 8-bit sum (R160). -/
def carry (a b : Byte) : Bool := decide (a.toNat + b.toNat > 255)

/-- No borrow in `a - b` (R161, R162). -/
def notBorrow (a b : Byte) : Bool := !decide (a.toNat < b.toNat)

/-- The bit a right shift puts out (R163, R171). -/
def shiftedOutRight (a : Byte) : Bool := a.getLsbD 0

/-- The bit a left shift puts out (R164, R172). -/
def shiftedOutLeft (a : Byte) : Bool := a.getLsbD 7

/-- Overflow of the 12-bit index sum (R191). -/
def indexOverflow (i : Word) (b : Byte) : Bool := decide (i.toNat + b.toNat > 0xFFF)

/-- `VF <- b` -/
def State.setFlag (s : State) (b : Bool) : State := s.setReg vf (flagByte b)

/-- The result first, the flag second (R181, D7). -/
def State.setRegFlag (s : State) (x : Reg) (r : Byte) (b : Bool) : State := (s.setReg x r).setFlag b

end Sys2Proof.Machine
end

