-- ==== Sys2Proof/Machine/Alu.lean ====
section
/-! DEFINITION. Arithmetic and logic (41_alu.md). Sources are read from the state before any write (R181). -/

namespace Sys2Proof.Machine

/-- An instruction that writes one register and no flag. -/
def writeReg (x : Reg) (r : Byte) (s : State) : Result := finish (s.setReg x r)

/-- An instruction that writes one register and then the flag. -/
def writeRegFlag (x : Reg) (r : Byte) (b : Bool) (s : State) : Result := finish (s.setRegFlag x r b)

/-- `6XKK` LD Vx, kk (R150). -/
def execLdImm (x : Reg) (kk : Byte) (s : State) : Result := writeReg x kk s

/-- `7XKK` ADD Vx, kk (R151): no flag. -/
def execAddImm (x : Reg) (kk : Byte) (s : State) : Result := writeReg x (s.reg x + kk) s

/-- `8XY0` LD Vx, Vy (R152). -/
def execLdReg (x y : Reg) (s : State) : Result := writeReg x (s.reg y) s

/-- `8XY1` OR Vx, Vy (R153): no flag. -/
def execOrReg (x y : Reg) (s : State) : Result := writeReg x (s.reg x ||| s.reg y) s

/-- `8XY2` AND Vx, Vy (R154): no flag. -/
def execAndReg (x y : Reg) (s : State) : Result := writeReg x (s.reg x &&& s.reg y) s

/-- `8XY3` XOR Vx, Vy (R155): no flag. -/
def execXorReg (x y : Reg) (s : State) : Result := writeReg x (s.reg x ^^^ s.reg y) s

/-- `8XY4` ADD Vx, Vy (R160). -/
def execAddReg (x y : Reg) (s : State) : Result :=
  writeRegFlag x (s.reg x + s.reg y) (carry (s.reg x) (s.reg y)) s

/-- `8XY5` SUB Vx, Vy (R161). -/
def execSub (x y : Reg) (s : State) : Result :=
  writeRegFlag x (s.reg x - s.reg y) (notBorrow (s.reg x) (s.reg y)) s

/-- `8XY7` SUBN Vx, Vy (R162). -/
def execSubn (x y : Reg) (s : State) : Result :=
  writeRegFlag x (s.reg y - s.reg x) (notBorrow (s.reg y) (s.reg x)) s

/-- What a shift reads: `V[x]` in place, `V[y]` in the legacy variant (R170; R163, R164, R171, R172). -/
def shiftSource (x y : Reg) (s : State) : Byte :=
  match s.params.shift with
  | .inPlace => s.reg x
  | .legacy => s.reg y

/-- `8XY6` SHR Vx, Vy (R163, R171). -/
def execShr (x y : Reg) (s : State) : Result :=
  writeRegFlag x (shiftSource x y s >>> 1) (shiftedOutRight (shiftSource x y s)) s

/-- `8XYE` SHL Vx, Vy (R164, R172). -/
def execShl (x y : Reg) (s : State) : Result :=
  writeRegFlag x (shiftSource x y s <<< 1) (shiftedOutLeft (shiftSource x y s)) s

/-- `draw_rng()` (R283): the oracle's next byte. -/
def State.drawnByte (s : State) : Byte := Config.rngByte s.rngDraws

/-- `CXKK` RND Vx, kk (R175). -/
def execRnd (x : Reg) (kk : Byte) (s : State) : Result := writeReg x (s.drawnByte &&& kk) s.countDraw

end Sys2Proof.Machine
end

