-- ==== Sys2Proof/Machine/ControlFlow.lean ====
section
/-! DEFINITION. Control flow (40_control_flow.md). -/

namespace Sys2Proof.Machine

/-- `1NNN` JP nnn (R120). -/
def execJp (nnn : BitVec 12) (s : State) : Result := .next (s.setPc (address nnn))

/-- `2NNN` CALL nnn (R121): the CALL's own address is pushed (D6, C2). -/
def execCall (nnn : BitVec 12) (s : State) : Result := .next ((s.push s.pc).setPc (address nnn))

/-- `00EE` RET (R122). -/
def execRet (s : State) : Result := .next (s.popped.setPc (mask12 (s.popValue + 2)))

/-- `3XKK` SE Vx, kk (R123). -/
def execSeImm (x : Reg) (kk : Byte) (s : State) : Result := skipIf (s.reg x == kk) s

/-- `4XKK` SNE Vx, kk (R124). -/
def execSneImm (x : Reg) (kk : Byte) (s : State) : Result := skipIf (s.reg x != kk) s

/-- `5XY0` SE Vx, Vy (R125). -/
def execSeReg (x y : Reg) (s : State) : Result := skipIf (s.reg x == s.reg y) s

/-- `9XY0` SNE Vx, Vy (R126). -/
def execSneReg (x y : Reg) (s : State) : Result := skipIf (s.reg x != s.reg y) s

/-- `BNNN` JP V0, nnn (R127, D5). -/
def execJpV0 (nnn : BitVec 12) (s : State) : Result := .next (s.setPc (mask12 (address nnn + wide (s.reg 0))))

end Sys2Proof.Machine
end

