-- ==== Sys2Proof/Machine/Display.lean ====
section
/-! DEFINITION. Display, mode and exit (44_display.md). -/

namespace Sys2Proof.Machine

/-! ## Clear and scroll: the whole canvas in both modes, and `DRAW` set in every case (D20, D21) -/

/-- A screen instruction's new buffer. -/
def redraw (fb : FrameBuffer) (s : State) : Result := finish ((s.setFb fb).setDraw true)

/-- `00E0` CLS (R240). -/
def execCls (s : State) : Result := redraw [] s

/-- `00CN` SCD n (R241). -/
def execScd (n : Nat) (s : State) : Result := redraw (s.fb.down n) s

/-- `00FB` SCR (R242). -/
def execScr (s : State) : Result := redraw (s.fb.right s.params.canvasW 4) s

/-- `00FC` SCL (R243). -/
def execScl (s : State) : Result := redraw (s.fb.left s.params.canvasW 4) s

/-! ## Mode and exit -/

/-- `00FE` LOW (R244). -/
def execLow (s : State) : Result := finish (s.setMode .standard)

/-- `00FF` HIGH (R245). -/
def execHigh (s : State) : Result := finish (s.setMode .super)

/-- `00FD` EXIT (R246): a reset, and no `advance(2)` follows. -/
def execExit (s : State) : Result := .next s.restart

/-! ## Sprite draw -/

/-- `W_mode` (10_state.md R33). -/
def State.wMode (s : State) : Nat :=
  match s.mode with
  | .standard => Config.loresW
  | .super => s.params.canvasW

/-- `H_mode` (10_state.md R33). -/
def State.hMode (s : State) : Nat :=
  match s.mode with
  | .standard => Config.loresH
  | .super => Config.canvasH

/-- `h`: `n`, or 16 when `n = 0`, in both modes (R251). -/
def spriteHeight (n : Nat) : Nat := if n = 0 then 16 else n

/-- Whether the sprite is 16 pixels wide: only in Super mode with `n = 0` (R251, D17). -/
def State.wideSprite (s : State) (n : Nat) : Bool := decide (s.mode = .super ∧ n = 0)

/-- `wd` -/
def State.spriteWidth (s : State) (n : Nat) : Nat := if s.wideSprite n then 16 else 8

/-- `bpr`, bytes per row -/
def State.bytesPerRow (s : State) (n : Nat) : Nat := if s.wideSprite n then 2 else 1

/-- `row[wd - 1 - c]` for row `r`: bit `c` from the left, the top bit first (R252); a wide row is two bytes, the left half
at the lower address (R66, R251, D18). -/
def State.spriteBit (s : State) (n r c : Nat) : Bool :=
  if s.wideSprite n then (bigEndian (s.indexedByte (2 * r)) (s.indexedByte (2 * r + 1))).getMsbD c
  else (s.indexedByte r).getMsbD c

/-- The cell of the sprite's row `r` and column `c`, wrapped in both directions (R250). -/
def State.spriteCell (s : State) (cx cy : Byte) (r c : Nat) : Pixel :=
  ((cx.toNat + c) % s.wMode, (cy.toNat + r) % s.hMode)

/-- The cells that the set bits of the sprite fall on, row by row from the top, each row from the left. -/
def State.spriteCells (s : State) (cx cy : Byte) (n : Nat) : List Pixel :=
  (List.range (spriteHeight n)).flatMap fun r =>
    (List.range (s.spriteWidth n)).filterMap fun c =>
      if s.spriteBit n r c then some (s.spriteCell cx cy r c) else none

/-- One pass of a draw: the buffer, the collision so far (R253), and whether a cell went from unset to set (R254). -/
structure Blit where
  fb : FrameBuffer
  hit : Bool
  drew : Bool
  deriving DecidableEq, Repr

/-- XORs one set sprite bit onto its cell (R250). -/
def blitCell (b : Blit) (c : Pixel) : Blit :=
  ⟨b.fb.toggle c, b.hit || b.fb.lit c, b.drew || !b.fb.lit c⟩

/-- The whole sprite, in order. -/
def blit (fb : FrameBuffer) (cells : List Pixel) : Blit := cells.foldl blitCell ⟨fb, false, false⟩

/-- What a finished draw leaves: the buffer, `VF` as the collision flag, and `DRAW` if a cell was set (R253, R254). -/
def State.drawn (s : State) (b : Blit) : State := ((s.setFb b.fb).setFlag b.hit).setDraw (s.draw || b.drew)

/-- `DXYN` DRW Vx, Vy, n (R250). The coordinates are read before `VF` is written (R253, D19). -/
def execDrw (x y : Reg) (n : Nat) (s : State) : Result :=
  withinRam (.drw x y n) (s.indexed (spriteHeight n * s.bytesPerRow n - 1)) s
    (finish (s.drawn (blit s.fb (s.spriteCells (s.reg x) (s.reg y) n))))

end Sys2Proof.Machine
end

