-- ==== Sys2Proof/Machine/IndexMemory.lean ====
section
/-! DEFINITION. The index register, loads and stores, and the RPL flags (42_index_memory.md). No instruction changes `I`
as a side effect of an access. -/

namespace Sys2Proof.Machine

/-- `ANNN` LD I, nnn (R190). -/
def execLdI (nnn : BitVec 12) (s : State) : Result := finish (s.setIndex (address nnn))

/-- `FX1E` ADD I, Vx (R191): the sum wraps to 12 bits. -/
def execAddI (x : Reg) (s : State) : Result :=
  finish ((s.setIndex (mask12 (s.i + wide (s.reg x)))).setFlag (indexOverflow s.i (s.reg x)))

/-- The glyph number of a register: `V[x] & FONT_DIGIT_MASK` (R192, R193). -/
def glyphNumber (x : Reg) (s : State) : Nat := (s.reg x &&& s.params.digitMask).toNat

/-- `FX29` LD F, Vx (R192). -/
def execLdF (x : Reg) (s : State) : Result :=
  finish (s.setIndex (BitVec.ofNat 16 (Config.fontLoBase + Config.fontLoStride * glyphNumber x s)))

/-- `FX30` LD HF, Vx (R193). -/
def execLdHF (x : Reg) (s : State) : Result :=
  finish (s.setIndex (BitVec.ofNat 16 (Config.fontHiBase + Config.fontHiStride * glyphNumber x s)))

/-- The three decimal digits of a byte, hundreds first (R195). -/
def bcdHundreds (b : Byte) : Byte := BitVec.ofNat 8 (b.toNat / 100)

def bcdTens (b : Byte) : Byte := BitVec.ofNat 8 (b.toNat / 10 % 10)

def bcdOnes (b : Byte) : Byte := BitVec.ofNat 8 (b.toNat % 10)

/-- The stores of FX33, in order. -/
def storeBcd (b : Byte) (s : State) : State :=
  ((s.setByte (s.indexed 0) (bcdHundreds b)).setByte (s.indexed 1) (bcdTens b)).setByte (s.indexed 2) (bcdOnes b)

/-- `FX33` LD B, Vx (R195). -/
def execLdB (x : Reg) (s : State) : Result :=
  withinRam (.ldB x) (s.indexed 2) s (finish (storeBcd (s.reg x) s))

/-- `MEM[I + k] <- V[k]` for the registers `ks`, in order (R196). -/
def storeBlock (ks : List Reg) (s : State) : State :=
  ks.foldl (fun t k => t.setByte (t.indexed k.val) (t.reg k)) s

/-- `V[k] <- MEM[I + k]` for the registers `ks`, in order (R197). -/
def loadBlock (ks : List Reg) (s : State) : State :=
  ks.foldl (fun t k => t.setReg k (t.indexedByte k.val)) s

/-- `FX55` LD [I], Vx (R196). -/
def execStoreRegs (x : Reg) (s : State) : Result :=
  withinRam (.storeRegs x) (s.indexed x.val) s (finish (storeBlock (regsUpTo x) s))

/-- `FX65` LD Vx, [I] (R197). -/
def execLoadRegs (x : Reg) (s : State) : Result :=
  withinRam (.loadRegs x) (s.indexed x.val) s (finish (loadBlock (regsUpTo x) s))

/-- `RPL[k] <- V[k]` for the flags `ks`, in order (R199). -/
def saveRpl (ks : List (Fin 8)) (s : State) : State :=
  ks.foldl (fun t k => t.setRpl k (t.reg (rplReg k))) s

/-- `V[k] <- RPL[k]` for the flags `ks`, in order (R200). -/
def recallRpl (ks : List (Fin 8)) (s : State) : State :=
  ks.foldl (fun t k => t.setReg (rplReg k) t.rpl[k.val]) s

/-- `FX75` LD R, Vx (R199). -/
def execStoreRpl (x : Reg) (s : State) : Result := finish (saveRpl (rplUpTo x) s)

/-- `FX85` LD Vx, R (R200). -/
def execLoadRpl (x : Reg) (s : State) : Result := finish (recallRpl (rplUpTo x) s)

end Sys2Proof.Machine
end

