-- ==== Sys2Proof/Machine/TimersInput.lean ====
section
/-! DEFINITION. Timers and input (43_timers_input.md). -/

namespace Sys2Proof.Machine

/-- `FX07` LD Vx, DT (R220). -/
def execLdVxDT (x : Reg) (s : State) : Result := finish (s.setReg x s.dt)

/-- `FX15` LD DT, Vx (R221). -/
def execLdDTVx (x : Reg) (s : State) : Result := finish (s.setDt (s.reg x))

/-- `FX18` LD ST, Vx (R222). -/
def execLdSTVx (x : Reg) (s : State) : Result := finish (s.setSt (s.reg x))

/-- A key skip: the key numbered by `V[x]` decides; there is no key above 15 (R224, R225, D12). -/
def keySkip (i : Instr) (x : Reg) (whenDown : Bool) (s : State) : Result :=
  match keyNumber (s.reg x) with
  | some k => skipIf (s.keyDown k == whenDown) s
  | none => raise .keyOutOfRange (some (encode i)) (wide (s.reg x)) s

/-- `EX9E` SKP Vx (R224). -/
def execSkp (x : Reg) (s : State) : Result := keySkip (.skp x) x true s

/-- `EXA1` SKNP Vx (R225). -/
def execSknp (x : Reg) (s : State) : Result := keySkip (.sknp x) x false s

/-- `FX0A` LD Vx, K (R226): with no key pressed nothing changes, and the next cycle runs it again. -/
def execLdVxK (x : Reg) (s : State) : Result :=
  match s.lowestKey with
  | some k => finish (s.setReg x (keyByte k))
  | none => .next s

end Sys2Proof.Machine
end

