-- ==== Sys2Proof/Machine/Cycle.lean ====
section
/-! DEFINITION. The five events of 60_exceptions.md R270: when each is enabled and what it does. -/

namespace Sys2Proof.Machine

/-- The instruction word at `pc`: `MEM[pc] : MEM[pc + 1]` (20_memory.md R66, R68). -/
def State.fetchWord (s : State) : Word := bigEndian (s.byte s.pc.toNat) (s.byte (s.pc.toNat + 1))

/-- `Cycle`, one fetch, decode and execute (R273). The checks come in the order of R274. -/
def cycle (s : State) : Result :=
  if s.pc.toNat + 1 > 0xFFF then raise .fetchOutOfRange none s.pc s
  else
    match decode s.fetchWord with
    | some i => exec i s
    | none => raise .unknownOpcode (some s.fetchWord) s.fetchWord s

/-- A timer's decrement, clamped at zero (R280). -/
def countDown (b : Byte) : Byte := if b = 0 then 0 else b - 1

/-- The sound gate `ST != 0` (R282). -/
def State.soundGate (s : State) : Bool := s.st != 0

/-- `Tick` (R280); the host samples the sound gate after it (R282). -/
def tick (s : State) : State :=
  let t := (s.setDt (countDown s.dt)).setSt (countDown s.st)
  t.setGate t.soundGate

/-- What the host takes on a draw event: `MODE` and the whole `FB` (R281). -/
def State.frame (s : State) : Frame := ⟨s.mode, s.fb⟩

/-- `DrawAck` (R281). -/
def drawAck (s : State) : State := (s.setFrame s.frame).setDraw false

/-- An event that a faulted core does not take (R272). -/
def unlessFaulted (s : State) (r : Result) : Result :=
  match s.fault with
  | none => r
  | some f => .fault (.stopped f)

/-- One event, where it is enabled (R270). -/
def runEvent (e : Event) (s : State) : Result :=
  match e with
  | .cycle => unlessFaulted s (cycle s)
  | .tick => unlessFaulted s (.next (tick s))
  | .keySnapshot k => .next (s.setKey k)
  | .drawAck => if s.draw then .next (drawAck s) else .refused .drawAckNotEnabled
  | .resetReq => unlessFaulted s (.next s.restart)

/-- The event due next (log 7). -/
def State.dueEvent (s : State) : Event := s.schedule.due

/-- The due event leaves the schedule. -/
def State.takeEvent (s : State) : State := s.setSchedule s.schedule.rest

/-- Stores an instruction word at `a`, the high byte first (R66). -/
def State.placeWord (s : State) (a : Nat) (w : Word) : State := (s.setByte a (highByte w)).setByte (a + 1) (lowByte w)

/-- Where the next instruction is fetched, if both its bytes lie in RAM, else the entry point. -/
def State.fetchAddress (s : State) : Word :=
  if s.pc.toNat + 1 > 0xFFF then BitVec.ofNat 16 Config.programStart else s.pc

end Sys2Proof.Machine
end

