-- ==== Sys2Proof/Machine/Step.lean ====
section
/-! DEFINITION. One step: the event due next (60_exceptions.md R270). -/

namespace Sys2Proof.Machine

/-- One step of the machine: the event due leaves the schedule and takes effect. -/
def step (s : State) : Host.Outcome State Fault Refusal := runEvent s.dueEvent s.takeEvent

/-- `s` with the instruction stored where the next step fetches: its word in RAM at `pc`, a `Cycle` due, and no fault
recorded (a faulted core fetches nothing). It stands for the load of a program from outside (log 12). -/
def State.withFetchWord (s : State) (nbits w : Nat) : State :=
  { (s.placeWord s.fetchAddress.toNat (tableWord nbits w)) with pc := s.fetchAddress, schedule := .cycles, fault := none }

end Sys2Proof.Machine
end

