-- ==== Sys2Proof/Safety.lean ====
section
/-! DEFINITION. The terms claims are stated in: the parts of the state and what changes only some of them, the invariant
of the core, and parked states. -/

namespace Sys2Proof.Machine

/-! ## Parts of the state -/

/-- Everything a step can change, one name each: a register, a byte of RAM, a cell of the frame buffer, and so on. -/
inductive Part where
  | reg (x : Reg)
  | index
  | pc
  | stack (k : Fin 16)
  | sp
  | dt
  | st
  | cell (c : Pixel)
  | mode
  | key (k : Fin 16)
  | rpl (k : Fin 8)
  | draw
  | romCache
  | fault
  | byte (a : Nat)
  | params
  | rngDraws
  | schedule
  | frameTaken
  | gateSampled
  deriving DecidableEq, Repr

/-- The two states hold the same in a part. RAM is compared through the read of one byte, the frame buffer through one
cell. -/
def Part.same (p : Part) (s t : State) : Prop :=
  match p with
  | .reg x => t.reg x = s.reg x
  | .index => t.i = s.i
  | .pc => t.pc = s.pc
  | .stack k => t.stack[k.val] = s.stack[k.val]
  | .sp => t.sp = s.sp
  | .dt => t.dt = s.dt
  | .st => t.st = s.st
  | .cell c => t.fb.lit c = s.fb.lit c
  | .mode => t.mode = s.mode
  | .key k => t.keyDown k = s.keyDown k
  | .rpl k => t.rpl[k.val] = s.rpl[k.val]
  | .draw => t.draw = s.draw
  | .romCache => t.romCache = s.romCache
  | .fault => t.fault = s.fault
  | .byte a => t.byte a = s.byte a
  | .params => t.params = s.params
  | .rngDraws => t.rngDraws = s.rngDraws
  | .schedule => t.schedule = s.schedule
  | .frameTaken => t.frameTaken = s.frameTaken
  | .gateSampled => t.gateSampled = s.gateSampled

/-- From `s` to `t` nothing changes but the parts `ps` names: every other register, every other byte of RAM, every other
cell of the frame buffer, and every other piece of state is as before. -/
def ChangesOnly (ps : Part → Prop) (s t : State) : Prop := ∀ p, ¬ ps p → p.same s t

/-! ## The invariant -/

/-- A fault record is one that R271 allows, in a core whose pc is `pc` (R272, R276). -/
def FaultRecord.legal (r : FaultRecord) (pc : Word) : Prop :=
  r.addr = pc ∧
  match r.cause with
  | .fetchOutOfRange => r.word = none ∧ r.addr = 0xFFF ∧ r.info = r.addr
  | .unknownOpcode => r.word = some r.info ∧ decode r.info = none
  | .memOutOfRange => (∃ i, i.wellFormed = true ∧ r.word = some (encode i)) ∧ r.info = 0x1000
  | .keyOutOfRange => (∃ i, i.wellFormed = true ∧ r.word = some (encode i)) ∧ 15 < r.info.toNat ∧ r.info.toNat < 256

/-- What holds of the state at every point (10_state.md: the invariants in the table at its head). -/
structure Inv (s : State) : Prop where
  /-- `I <= 0xFFF` (R22) -/
  index : s.i.toNat ≤ 0xFFF
  /-- `pc <= 0xFFF` (R23) -/
  pc : s.pc.toNat ≤ 0xFFF
  /-- each stack entry is at most 0xFFF (R26) -/
  stack : ∀ k : Fin 16, (s.stack[k.val]).toNat ≤ 0xFFF
  /-- the ROM fits (R37, R303) -/
  rom : s.romCache.length ≤ Config.romMax
  /-- memory is in its canonical form, inside RAM (R60) -/
  mem : s.mem.wf s.params = true
  /-- the frame buffer is in its canonical form, inside the canvas (R32) -/
  fb : s.fb.wf s.params.canvasW = true
  /-- the fault record, if any, is one R271 allows (R38) -/
  fault : ∀ r, s.fault = some r → r.legal s.pc
  /-- so is the frame the host holds (R281) -/
  frame : ∀ f, s.frameTaken = some f → f.fb.wf s.params.canvasW = true

/-! ## Safe and parked states -/

/-- The core runs: no fault is recorded (R38). -/
def State.running (s : State) : Bool := s.fault.isNone

/-- A parked state: no fault, and the word at `pc` is a jump to `pc` (70_reset_and_hazards.md R308). -/
def State.parked (s : State) : Bool :=
  s.running && decide (s.pc.toNat + 1 ≤ 0xFFF) &&
    decide (fieldOp s.fetchWord = 0x1 ∧ address (fieldNNN s.fetchWord) = s.pc)

end Sys2Proof.Machine
end

