-- ==== Sys2Proof/Certificates/Slice0/Obligations.lean ====
section
/-! DEFINITION. The statements for the provers, in the order of spec/: encoding, events and faults, control flow,
arithmetic and logic, index and memory, timers and input, display, reset and load, whole-machine rules. Each holds in
every state unless it names a premise. A statement of one instruction gives its word pattern (30_encoding.md R96), that it
completes, its result, and that nothing else changes. The word patterns of R96 are what the spec supplies from general
knowledge (D2, log 16). -/

/-! ## The terms the statements use -/

namespace Sys2Proof.Claims

open Sys2Proof.Machine

/-- `pc` has advanced by `k`, wrapping at 0x1000 (10_state.md R24). -/
def Advanced (k : Nat) (s t : State) : Prop := t.pc.toNat = (s.pc.toNat + k) % 0x1000

/-- A flag value: 1 when `p` holds, else 0 (10_state.md R39). -/
def IsFlag (b : Byte) (p : Prop) : Prop := (p → b = 1) ∧ (¬ p → b = 0)

/-- What RAM holds at `a` right after a load of `rom` (20_memory.md R63). -/
def firstByte (p : Params) (rom : List Byte) (a : Nat) : Byte :=
  if 0x200 ≤ a ∧ a - 0x200 < rom.length then rom.getD (a - 0x200) 0
  else if h : a < 80 then p.fontLo[a]
  else if a < 240 then Config.fontHiByte (a - 80)
  else 0

/-- The state of first load with `rom` (10_state.md R42; 20_memory.md R63). -/
def FirstLoad (rom : List Byte) (t : State) : Prop :=
  (∀ x, t.reg x = 0) ∧ t.i = 0 ∧ t.pc = 0x200 ∧ (∀ k : Fin 16, t.stack[k.val] = 0) ∧ t.sp = 0 ∧
  t.dt = 0 ∧ t.st = 0 ∧ (∀ c, t.fb.lit c = false) ∧ t.mode = .standard ∧ (∀ k, t.keyDown k = false) ∧
  (∀ k : Fin 8, t.rpl[k.val] = 0) ∧ t.draw = false ∧ t.romCache = rom ∧ t.fault = none ∧
  ∀ a ≤ 0xFFF, t.byte a = firstByte t.params rom a

/-- The parts of a state that are the model's own and not the spec's (log 11). -/
def modelPart : Part → Bool
  | .params => true
  | .rngDraws => true
  | .schedule => true
  | .frameTaken => true
  | .gateSampled => true
  | _ => false

/-- The height of a sprite (44_display.md R251). -/
def height (n : Nat) : Nat := if n = 0 then 16 else n

/-- Bytes per sprite row (R250, R251). -/
def rowBytes (m : Mode) (n : Nat) : Nat := if m = .super ∧ n = 0 then 2 else 1

/-- The addressable width and height of the mode (10_state.md R33). -/
def areaW (s : State) : Nat := if s.mode = .super then s.params.canvasW else 64

def areaH (s : State) : Nat := if s.mode = .super then 64 else 32

/-- A set bit of the sprite falls on the cell `p`: in row `r` and column `c` the bit is bit `7 - c mod 8` of the byte at
`I + bpr * r + c / 8`, and the cell is `(V[x] + c, V[y] + r)` modulo the addressable area (R250, R252). -/
def SpriteHits (s : State) (x y : Reg) (n : Nat) (p : Pixel) : Prop :=
  ∃ r < height n, ∃ c < 8 * rowBytes s.mode n,
    (s.byte (s.i.toNat + rowBytes s.mode n * r + c / 8)).getLsbD (7 - c % 8) = true ∧
    p = (((s.reg x).toNat + c) % areaW s, ((s.reg y).toNat + r) % areaH s)

/-- Which instructions may write `VF`: those that write it as a flag, those whose destination is register 15, and EXIT,
which resets it (10_state.md R39; 44_display.md R246). -/
def mayWriteVf : Instr → Bool
  | .addReg _ _ => true
  | .sub _ _ => true
  | .subn _ _ => true
  | .shr _ _ => true
  | .shl _ _ => true
  | .addI _ => true
  | .drw _ _ _ => true
  | .exit => true
  | .ldImm x _ => x == 15
  | .addImm x _ => x == 15
  | .ldReg x _ => x == 15
  | .orReg x _ => x == 15
  | .andReg x _ => x == 15
  | .xorReg x _ => x == 15
  | .rnd x _ => x == 15
  | .ldVxDT x => x == 15
  | .ldVxK x => x == 15
  | .loadRegs x => x == 15
  | _ => false

/-- The instructions R25 lists as not advancing `pc` by 2. -/
def setsPc : Instr → Bool
  | .jp _ => true
  | .jpV0 _ => true
  | .call _ => true
  | .ret => true
  | .exit => true
  | .ldVxK _ => true
  | _ => false

def skips : Instr → Bool
  | .seImm _ _ => true
  | .sneImm _ _ => true
  | .seReg _ _ => true
  | .sneReg _ _ => true
  | .skp _ => true
  | .sknp _ => true
  | _ => false

/-- The instructions that may set `DRAW` (10_state.md R36). -/
def mayDraw : Instr → Bool
  | .cls => true
  | .scd _ => true
  | .scr => true
  | .scl => true
  | .drw _ _ _ => true
  | _ => false

end Sys2Proof.Claims

open Sys2Proof Sys2Proof.Machine Sys2Proof.Claims

/-! ## Encoding (30_encoding.md) -/

/-- A few words written out from the patterns of R96 decode to the instructions they stand for. -/
def Obligations.WrittenWordsDecode : Prop :=
  decode 0x00C3 = some (.scd 3) ∧ decode 0x00EE = some .ret ∧ decode 0x1234 = some (.jp 0x234) ∧
  decode 0x332A = some (.seImm 3 0x2A) ∧ decode 0x8124 = some (.addReg 1 2) ∧ decode 0x840E = some (.shl 4 0) ∧
  decode 0xA2F0 = some (.ldI 0x2F0) ∧ decode 0xC30F = some (.rnd 3 0x0F) ∧ decode 0xD125 = some (.drw 1 2 5) ∧
  decode 0xE29E = some (.skp 2) ∧ decode 0xF433 = some (.ldB 4) ∧ decode 0xF507 = some (.ldVxDT 5) ∧
  decode 0x8128 = none ∧ decode 0x00E1 = none ∧ decode 0xE09F = none

/-- Decoding the word of any well-formed instruction gives the instruction back, with every operand. -/
def Obligations.DecodeInvertsEncode : Prop :=
  ∀ i : Instr, i.wellFormed = true → decode (encode i) = some i

/-- Every word that decodes is the word of the instruction it decodes to, which is well formed. -/
def Obligations.EncodeInvertsDecode : Prop :=
  ∀ (w : Word) (i : Instr), decode w = some i → i.wellFormed = true ∧ encode i = w

/-- R96: a word decodes to an instruction of the row it selects by mask and match; a word that selects a row decodes to
an instruction of that row; and no word selects two rows. -/
def Obligations.WordSelectsOneRow : Prop :=
  (∀ (w : Word) (i : Instr), decode w = some i → w &&& (opcodeRow i).mask = (opcodeRow i).pattern) ∧
  (∀ (w : Word) (j : Instr), w &&& (opcodeRow j).mask = (opcodeRow j).pattern →
    ∃ i, decode w = some i ∧ opcodeRow i = opcodeRow j) ∧
  ∀ (w : Word) (i j : Instr), w &&& (opcodeRow i).mask = (opcodeRow i).pattern →
    w &&& (opcodeRow j).mask = (opcodeRow j).pattern → opcodeRow i = opcodeRow j

/-- R100: the illegal words are exactly those of its table, by top nibble `w / 4096`, last nibble and last byte. -/
def Obligations.IllegalWordsAreExactly : Prop :=
  ∀ w : Word, decode w = none ↔
    (w.toNat / 4096 = 0 ∧ ¬ (0x00C0 ≤ w.toNat ∧ w.toNat ≤ 0x00CF) ∧ w.toNat ≠ 0x00E0 ∧ w.toNat ≠ 0x00EE ∧
      ¬ (0x00FB ≤ w.toNat ∧ w.toNat ≤ 0x00FF)) ∨
    ((w.toNat / 4096 = 5 ∨ w.toNat / 4096 = 9) ∧ w.toNat % 16 ≠ 0) ∨
    (w.toNat / 4096 = 8 ∧ w.toNat % 16 ∈ [0x8, 0x9, 0xA, 0xB, 0xC, 0xD, 0xF]) ∨
    (w.toNat / 4096 = 0xE ∧ w.toNat % 256 ∉ [0x9E, 0xA1]) ∨
    (w.toNat / 4096 = 0xF ∧
      w.toNat % 256 ∉ [0x07, 0x0A, 0x15, 0x18, 0x1E, 0x29, 0x30, 0x33, 0x55, 0x65, 0x75, 0x85])

/-! ## Events and faults (60_exceptions.md) -/

/-- When a `Cycle` is due, no fault is recorded and the two bytes at `pc`, the high byte first, decode to `i`, the step is
`exec i` on the state with the event taken from the schedule (R273; the schedule is the model's own, log 7). -/
def Obligations.StepRunsDecodedInstruction : Prop :=
  ∀ (s : State) (i : Instr), s.dueEvent = .cycle → s.fault = none → s.pc.toNat + 1 ≤ 0xFFF →
    decode (bigEndian (s.byte s.pc.toNat) (s.byte (s.pc.toNat + 1))) = some i → step s = exec i s.takeEvent

/-- Executing a word that matches no row raises `UnknownOpcode` with the word, at the pc it was fetched from (R98; the
record's fields are R271, decision D24), and nothing else changes (R272, D41) but that the event is taken from the schedule
(the schedule is the model's own, log 7). -/
def Obligations.IllegalWordRaisesUnknownOpcode : Prop :=
  ∀ (s : State) (w : Word), s.dueEvent = .cycle → s.fault = none → s.pc.toNat + 1 ≤ 0xFFF →
    w = bigEndian (s.byte s.pc.toNat) (s.byte (s.pc.toNat + 1)) →
    (∀ j : Instr, w &&& (opcodeRow j).mask ≠ (opcodeRow j).pattern) →
    ∃ t, step s = .next t ∧ t.fault = some ⟨.unknownOpcode, some w, s.pc, w⟩ ∧ t.schedule = s.schedule.rest ∧
      ChangesOnly (fun p => p = .fault ∨ p = .schedule) s t

/-- A fetch whose second byte would lie past 0xFFF raises `FetchOutOfRange` with no word (R68; the fault is the spec's
decision D10, the record's fields R271, D24), and nothing else changes (R272, D41) but that the event is taken from the
schedule (the schedule is the model's own, log 7). -/
def Obligations.FetchPastTopFaults : Prop :=
  ∀ s : State, s.dueEvent = .cycle → s.fault = none → 0xFFF < s.pc.toNat + 1 →
    ∃ t, step s = .next t ∧ t.fault = some ⟨.fetchOutOfRange, none, s.pc, s.pc⟩ ∧ t.schedule = s.schedule.rest ∧
      ChangesOnly (fun p => p = .fault ∨ p = .schedule) s t

/-- The four instructions that access RAM fault before any change when their last address is above 0xFFF (R70, D11, D41):
the fault has the instruction's word, its pc and 0x1000. -/
def Obligations.AccessPastTopFaults : Prop :=
  ∀ (i : Instr) (s : State),
    ((∃ x, i = .ldB x ∧ 0xFFF < s.i.toNat + 2) ∨
     (∃ x : Reg, (i = .storeRegs x ∨ i = .loadRegs x) ∧ 0xFFF < s.i.toNat + x.val) ∨
     (∃ x y n, i = .drw x y n ∧ 0xFFF < s.i.toNat + height n * rowBytes s.mode n - 1)) →
    ∃ t, exec i s = .next t ∧ t.fault = some ⟨.memOutOfRange, some (encode i), s.pc, 0x1000⟩ ∧
      ChangesOnly (fun p => p = .fault) s t

/-- The key skips fault on a register above 15 before any change (R224, R225; the fault is the spec's decision D12). -/
def Obligations.KeyNumberPastFifteenFaults : Prop :=
  ∀ (x : Reg) (i : Instr) (s : State), i = .skp x ∨ i = .sknp x → 15 < (s.reg x).toNat →
    ∃ t r, exec i s = .next t ∧ t.fault = some r ∧ r.cause = .keyOutOfRange ∧ r.word = some (encode i) ∧
      r.addr = s.pc ∧ r.info.toNat = (s.reg x).toNat ∧ ChangesOnly (fun p => p = .fault) s t

/-- Faults are precise: an instruction that leaves a fault in a core that had none changed nothing else, and the record
has its word and its pc (R272, R276). -/
def Obligations.FaultsArePrecise : Prop :=
  ∀ (i : Instr) (s t : State) (r : FaultRecord), exec i s = .next t → s.fault = none → t.fault = some r →
    r.word = some (encode i) ∧ r.addr = s.pc ∧ ChangesOnly (fun p => p = .fault) s t

/-- A faulted core takes no `Cycle`, `Tick` or `ResetReq`, and no step clears or changes its fault (R272, R38; that an event
due there stops the machine is the model's reading, log 8; the schedule that has it due is the model's own, log 7). -/
def Obligations.FaultStopsTheCore : Prop :=
  ∀ (s : State) (r : FaultRecord), s.fault = some r →
    ((s.dueEvent = .cycle ∨ s.dueEvent = .tick ∨ s.dueEvent = .resetReq) → step s = .fault (.stopped r)) ∧
    ∀ t, step s = .next t → t.fault = some r

/-- No instruction stops the machine: in every state every instruction answers a next state (a fault it raises is
recorded there, R272, R273; that it is a next state is the model's reading, log 8). -/
def Obligations.EveryInstructionAnswersNext : Prop :=
  ∀ (i : Instr) (s : State), ∃ t, exec i s = .next t

/-- `Tick` decrements both timers by one, clamped at zero, and the host then samples the sound gate `ST != 0`; nothing else
changes (R280, D42; R282, D34; the sampled gate is the model's own field, log 10) but that the event is taken from the
schedule (the schedule is the model's own, log 7). -/
def Obligations.TickCountsDown : Prop :=
  ∀ s : State, s.dueEvent = .tick → s.fault = none →
    ∃ t, step s = .next t ∧ t.dt.toNat = s.dt.toNat - 1 ∧ t.st.toNat = s.st.toNat - 1 ∧
      t.gateSampled = some (t.st != 0) ∧ t.schedule = s.schedule.rest ∧
      ChangesOnly (fun p => p = .dt ∨ p = .st ∨ p = .gateSampled ∨ p = .schedule) s t

/-- `KeySnapshot(k)` replaces all 16 key flags, also in a faulted core, and changes nothing else (R284, D27; R270) but
that the event is taken from the schedule (the schedule is the model's own, log 7). -/
def Obligations.KeySnapshotReplacesKeys : Prop :=
  ∀ (s : State) (k : Vector Bool 16), s.dueEvent = .keySnapshot k →
    ∃ t, step s = .next t ∧ (∀ j : Fin 16, t.keyDown j = k[j.val]) ∧ t.schedule = s.schedule.rest ∧
      ChangesOnly (fun p => (∃ j, p = .key j) ∨ p = .schedule) s t

/-- `DrawAck` gives the host `MODE` and every cell of `FB`, then clears `DRAW`; it is enabled only while `DRAW` is set
(R281, D33; R270; the frame taken is the model's own field and the refusal its own, logs 9 and 10); the event is taken from
the schedule (the schedule is the model's own, log 7), and nothing else changes. -/
def Obligations.DrawAckTakesFrame : Prop :=
  ∀ s : State, s.dueEvent = .drawAck →
    (s.draw = true → ∃ t f, step s = .next t ∧ t.frameTaken = some f ∧ f.mode = s.mode ∧
      (∀ c, f.fb.lit c = s.fb.lit c) ∧ t.draw = false ∧ t.schedule = s.schedule.rest ∧
      ChangesOnly (fun p => p = .draw ∨ p = .frameTaken ∨ p = .schedule) s t) ∧
    (s.draw = false → step s = .refused .drawAckNotEnabled)

/-- The host's reset request performs `Reset()`, the same operation as EXIT (R285), on the state with the event taken from
the schedule (the schedule is the model's own, log 7). -/
def Obligations.ResetRequestIsExit : Prop :=
  ∀ s : State, s.dueEvent = .resetReq → s.fault = none →
    step s = .next s.takeEvent.restart ∧ step s = exec .exit s.takeEvent

/-! ## Control flow (40_control_flow.md) -/

/-- R120: JP sets `pc` to `nnn` and changes nothing else. -/
def Obligations.JumpSetsPc : Prop :=
  ∀ (nnn : BitVec 12) (s : State), decode (formatFA 0x1 nnn) = some (.jp nnn) ∧
    ∃ t, exec (.jp nnn) s = .next t ∧ t.pc.toNat = nnn.toNat ∧ ChangesOnly (fun p => p = .pc) s t

/-- CALL pushes its own address (R121; the pushed value is the spec's decision D6), steps `SP` modulo 16 (R27) and sets
`pc`. -/
def Obligations.CallPushesItsAddress : Prop :=
  ∀ (nnn : BitVec 12) (s : State), decode (formatFA 0x2 nnn) = some (.call nnn) ∧
    ∃ t, exec (.call nnn) s = .next t ∧ t.pc.toNat = nnn.toNat ∧ t.stack[s.sp.val] = s.pc ∧
      t.sp.val = (s.sp.val + 1) % 16 ∧
      ChangesOnly (fun p => p = .pc ∨ p = .sp ∨ p = .stack s.sp) s t

/-- R122: RET steps `SP` back modulo 16 and returns to the entry there plus 2; after a CALL, a RET that finds the stack as
the CALL left it resumes at the instruction after the CALL (the spec's own inference in R122, from D6). -/
def Obligations.ReturnPopsPc : Prop :=
  decode 0x00EE = some .ret ∧
  (∀ s : State, ∃ t, exec .ret s = .next t ∧ t.sp.val = (s.sp.val + 15) % 16 ∧
    t.pc.toNat = ((s.stack[t.sp.val]).toNat + 2) % 0x1000 ∧ ChangesOnly (fun p => p = .pc ∨ p = .sp) s t) ∧
  ∀ (nnn : BitVec 12) (s t r u : State), exec (.call nnn) s = .next t → r.sp = t.sp → r.stack = t.stack →
    exec .ret r = .next u → Advanced 2 s u ∧ u.sp = s.sp

/-- The stack wraps without detection (R29). Sixteen pushes bring `SP` back and fill every entry, the seventeenth overwrites
the first of them (R27), a RET with `SP = 0` reads `STACK[15]` and returns to it plus 2 (R122), a CALL with `SP = 15` stores
its own address there (R121; the pushed value is the spec's decision D6, log 16), and neither faults. -/
def Obligations.StackWrapsSilently : Prop :=
  (∀ (s : State) (as : List Word), as.length = 16 →
    (as.foldl State.push s).sp = s.sp ∧
    (∀ k : Nat, k < 16 → (as.foldl State.push s).stack[(s.sp.val + k) % 16]'(Nat.mod_lt _ (by omega)) = as.getD k 0) ∧
    ∀ b, ((as.foldl State.push s).push b).stack[s.sp.val] = b) ∧
  (∀ s : State, s.sp = 0 → ∃ t, exec .ret s = .next t ∧ t.sp = 15 ∧ t.pc.toNat = ((s.stack[15]).toNat + 2) % 0x1000 ∧
    t.fault = s.fault) ∧
  ∀ (nnn : BitVec 12) (s : State), s.sp = 15 → ∃ t, exec (.call nnn) s = .next t ∧ t.sp = 0 ∧ t.stack[15] = s.pc ∧
    t.fault = s.fault

/-- R123 to R126: each skip advances `pc` by exactly 4 when its condition holds, else by 2, and changes nothing else. -/
def Obligations.SkipsAdvanceFourOrTwo : Prop :=
  ∀ (x y : Reg) (kk : Byte) (s : State),
    (decode (formatFXK 0x3 x kk) = some (.seImm x kk) ∧ ∃ t, exec (.seImm x kk) s = .next t ∧
      (s.reg x = kk → Advanced 4 s t) ∧ (s.reg x ≠ kk → Advanced 2 s t) ∧ ChangesOnly (fun p => p = .pc) s t) ∧
    (decode (formatFXK 0x4 x kk) = some (.sneImm x kk) ∧ ∃ t, exec (.sneImm x kk) s = .next t ∧
      (s.reg x ≠ kk → Advanced 4 s t) ∧ (s.reg x = kk → Advanced 2 s t) ∧ ChangesOnly (fun p => p = .pc) s t) ∧
    (decode (formatFXYN 0x5 x y 0x0) = some (.seReg x y) ∧ ∃ t, exec (.seReg x y) s = .next t ∧
      (s.reg x = s.reg y → Advanced 4 s t) ∧ (s.reg x ≠ s.reg y → Advanced 2 s t) ∧
      ChangesOnly (fun p => p = .pc) s t) ∧
    (decode (formatFXYN 0x9 x y 0x0) = some (.sneReg x y) ∧ ∃ t, exec (.sneReg x y) s = .next t ∧
      (s.reg x ≠ s.reg y → Advanced 4 s t) ∧ (s.reg x = s.reg y → Advanced 2 s t) ∧
      ChangesOnly (fun p => p = .pc) s t)

/-- JP V0 sets `pc` to `nnn + V[0]`, masked to 12 bits (R127; the instruction is the spec's decision D5). -/
def Obligations.JumpOffsetsByV0 : Prop :=
  ∀ (nnn : BitVec 12) (s : State), decode (formatFA 0xB nnn) = some (.jpV0 nnn) ∧
    ∃ t, exec (.jpV0 nnn) s = .next t ∧ t.pc.toNat = (nnn.toNat + (s.reg 0).toNat) % 0x1000 ∧
      ChangesOnly (fun p => p = .pc) s t

/-! ## Arithmetic and logic (41_alu.md) -/

/-- R150, R152 to R155: the moves and the bitwise operations write `V[x]` and no flag, and advance by 2. -/
def Obligations.MovesAndBitwiseWriteOneRegister : Prop :=
  ∀ (x y : Reg) (kk : Byte) (s : State),
    (decode (formatFXK 0x6 x kk) = some (.ldImm x kk) ∧ ∃ t, exec (.ldImm x kk) s = .next t ∧ t.reg x = kk ∧
      Advanced 2 s t ∧ ChangesOnly (fun p => p = .reg x ∨ p = .pc) s t) ∧
    (decode (formatFXYN 0x8 x y 0x0) = some (.ldReg x y) ∧ ∃ t, exec (.ldReg x y) s = .next t ∧ t.reg x = s.reg y ∧
      Advanced 2 s t ∧ ChangesOnly (fun p => p = .reg x ∨ p = .pc) s t) ∧
    (decode (formatFXYN 0x8 x y 0x1) = some (.orReg x y) ∧ ∃ t, exec (.orReg x y) s = .next t ∧
      (∀ k < 8, (t.reg x).getLsbD k = ((s.reg x).getLsbD k || (s.reg y).getLsbD k)) ∧
      Advanced 2 s t ∧ ChangesOnly (fun p => p = .reg x ∨ p = .pc) s t) ∧
    (decode (formatFXYN 0x8 x y 0x2) = some (.andReg x y) ∧ ∃ t, exec (.andReg x y) s = .next t ∧
      (∀ k < 8, (t.reg x).getLsbD k = ((s.reg x).getLsbD k && (s.reg y).getLsbD k)) ∧
      Advanced 2 s t ∧ ChangesOnly (fun p => p = .reg x ∨ p = .pc) s t) ∧
    (decode (formatFXYN 0x8 x y 0x3) = some (.xorReg x y) ∧ ∃ t, exec (.xorReg x y) s = .next t ∧
      (∀ k < 8, (t.reg x).getLsbD k = ((s.reg x).getLsbD k != (s.reg y).getLsbD k)) ∧
      Advanced 2 s t ∧ ChangesOnly (fun p => p = .reg x ∨ p = .pc) s t)

/-- R151: ADD Vx, kk wraps modulo 256 and leaves `VF` alone unless it is the destination. -/
def Obligations.AddImmediateSetsNoFlag : Prop :=
  ∀ (x : Reg) (kk : Byte) (s : State), decode (formatFXK 0x7 x kk) = some (.addImm x kk) ∧
    ∃ t, exec (.addImm x kk) s = .next t ∧ (t.reg x).toNat = ((s.reg x).toNat + kk.toNat) % 256 ∧
      Advanced 2 s t ∧ ChangesOnly (fun p => p = .reg x ∨ p = .pc) s t

/-- R160: ADD Vx, Vy wraps modulo 256, and `VF` ends as the carry, also when it is the destination. -/
def Obligations.AddSetsCarry : Prop :=
  ∀ (x y : Reg) (s : State), decode (formatFXYN 0x8 x y 0x4) = some (.addReg x y) ∧
    ∃ t, exec (.addReg x y) s = .next t ∧
      (x ≠ 15 → (t.reg x).toNat = ((s.reg x).toNat + (s.reg y).toNat) % 256) ∧
      IsFlag (t.reg 15) ((s.reg x).toNat + (s.reg y).toNat > 255) ∧
      Advanced 2 s t ∧ ChangesOnly (fun p => p = .reg x ∨ p = .reg 15 ∨ p = .pc) s t

/-- R161 and R162: SUB and SUBN wrap modulo 256, and `VF` ends as the not-borrow, also when it is the destination. -/
def Obligations.SubtractSetsNotBorrow : Prop :=
  ∀ (x y : Reg) (s : State),
    (decode (formatFXYN 0x8 x y 0x5) = some (.sub x y) ∧ ∃ t, exec (.sub x y) s = .next t ∧
      (x ≠ 15 → ((t.reg x).toNat : Int) = ((s.reg x).toNat - (s.reg y).toNat : Int) % 256) ∧
      IsFlag (t.reg 15) (¬ (s.reg x).toNat < (s.reg y).toNat) ∧
      Advanced 2 s t ∧ ChangesOnly (fun p => p = .reg x ∨ p = .reg 15 ∨ p = .pc) s t) ∧
    (decode (formatFXYN 0x8 x y 0x7) = some (.subn x y) ∧ ∃ t, exec (.subn x y) s = .next t ∧
      (x ≠ 15 → ((t.reg x).toNat : Int) = ((s.reg y).toNat - (s.reg x).toNat : Int) % 256) ∧
      IsFlag (t.reg 15) (¬ (s.reg y).toNat < (s.reg x).toNat) ∧
      Advanced 2 s t ∧ ChangesOnly (fun p => p = .reg x ∨ p = .reg 15 ∨ p = .pc) s t)

/-- The shifts of the normal core shift `V[x]` in place, ignore `y`, and put the bit shifted out in `VF` (R163, R164, R170;
the flag bit is the spec's decision D8). -/
def Obligations.ShiftsActInPlace : Prop :=
  ∀ (x y : Reg) (s : State), s.params.shift = .inPlace →
    (decode (formatFXYN 0x8 x y 0x6) = some (.shr x y) ∧ ∃ t, exec (.shr x y) s = .next t ∧
      (x ≠ 15 → (t.reg x).toNat = (s.reg x).toNat / 2) ∧ IsFlag (t.reg 15) ((s.reg x).toNat % 2 = 1) ∧
      Advanced 2 s t ∧ ChangesOnly (fun p => p = .reg x ∨ p = .reg 15 ∨ p = .pc) s t) ∧
    (decode (formatFXYN 0x8 x y 0xE) = some (.shl x y) ∧ ∃ t, exec (.shl x y) s = .next t ∧
      (x ≠ 15 → (t.reg x).toNat = (s.reg x).toNat * 2 % 256) ∧ IsFlag (t.reg 15) (128 ≤ (s.reg x).toNat) ∧
      Advanced 2 s t ∧ ChangesOnly (fun p => p = .reg x ∨ p = .reg 15 ∨ p = .pc) s t)

/-- The legacy shifts shift `V[y]` into `V[x]` (R170, R171, R172; the flag bit is the spec's decision D8, the parameter
D9). -/
def Obligations.LegacyShiftsReadVy : Prop :=
  ∀ (x y : Reg) (s : State), s.params.shift = .legacy →
    (∃ t, exec (.shr x y) s = .next t ∧
      (x ≠ 15 → (t.reg x).toNat = (s.reg y).toNat / 2) ∧ IsFlag (t.reg 15) ((s.reg y).toNat % 2 = 1) ∧
      Advanced 2 s t ∧ ChangesOnly (fun p => p = .reg x ∨ p = .reg 15 ∨ p = .pc) s t) ∧
    (∃ t, exec (.shl x y) s = .next t ∧
      (x ≠ 15 → (t.reg x).toNat = (s.reg y).toNat * 2 % 256) ∧ IsFlag (t.reg 15) (128 ≤ (s.reg y).toNat) ∧
      Advanced 2 s t ∧ ChangesOnly (fun p => p = .reg x ∨ p = .reg 15 ∨ p = .pc) s t)

/-- RND writes the oracle's next byte ANDed with `kk`, whatever that byte is, and uses it up (R175, R283; D25; the count of
draws is the model's own field, log 6). -/
def Obligations.RandomByteIsMasked : Prop :=
  ∀ (x : Reg) (kk : Byte) (s : State), decode (formatFXK 0xC x kk) = some (.rnd x kk) ∧
    ∃ t, exec (.rnd x kk) s = .next t ∧
      (∀ k < 8, (t.reg x).getLsbD k = ((Config.rngByte s.rngDraws).getLsbD k && kk.getLsbD k)) ∧
      t.rngDraws = s.rngDraws + 1 ∧ Advanced 2 s t ∧
      ChangesOnly (fun p => p = .reg x ∨ p = .rngDraws ∨ p = .pc) s t

/-! ## Index register, loads and stores (42_index_memory.md) -/

/-- R190 and R191: LD I sets `I` to `nnn`; ADD I adds `V[x]` modulo 0x1000, and `VF` ends as the overflow of the sum past
0xFFF, also when `x` is 15. -/
def Obligations.IndexIsSetAndAdded : Prop :=
  (∀ (nnn : BitVec 12) (s : State), decode (formatFA 0xA nnn) = some (.ldI nnn) ∧
    ∃ t, exec (.ldI nnn) s = .next t ∧ t.i.toNat = nnn.toNat ∧ Advanced 2 s t ∧
      ChangesOnly (fun p => p = .index ∨ p = .pc) s t) ∧
  ∀ (x : Reg) (s : State), decode (formatFXK 0xF x 0x1E) = some (.addI x) ∧
    ∃ t, exec (.addI x) s = .next t ∧ t.i.toNat = (s.i.toNat + (s.reg x).toNat) % 0x1000 ∧
      IsFlag (t.reg 15) (s.i.toNat + (s.reg x).toNat > 0xFFF) ∧ Advanced 2 s t ∧
      ChangesOnly (fun p => p = .index ∨ p = .reg 15 ∨ p = .pc) s t

/-- The font lookups point `I` at glyph `V[x] & FONT_DIGIT_MASK`, five or ten bytes a glyph, without clamping (R192, R193;
the bases and the mask are the spec's decisions D13, D14, D35). -/
def Obligations.GlyphAddresses : Prop :=
  ∀ (x : Reg) (s : State),
    (decode (formatFXK 0xF x 0x29) = some (.ldF x) ∧ ∃ t, exec (.ldF x) s = .next t ∧
      t.i.toNat = 5 * (s.reg x &&& s.params.digitMask).toNat ∧ Advanced 2 s t ∧
      ChangesOnly (fun p => p = .index ∨ p = .pc) s t) ∧
    (decode (formatFXK 0xF x 0x30) = some (.ldHF x) ∧ ∃ t, exec (.ldHF x) s = .next t ∧
      t.i.toNat = 0x50 + 10 * (s.reg x &&& s.params.digitMask).toNat ∧ Advanced 2 s t ∧
      ChangesOnly (fun p => p = .index ∨ p = .pc) s t)

/-- FX33 stores the hundreds, tens and ones of `V[x]` at `I`, `I + 1`, `I + 2`, and no other byte changes (R195; the range
it completes in is the spec's decision D11). -/
def Obligations.BcdStoresThreeDigits : Prop :=
  ∀ (x : Reg) (s : State), s.indexed 2 ≤ 0xFFF →
    decode (formatFXK 0xF x 0x33) = some (.ldB x) ∧
    ∃ t, exec (.ldB x) s = .next t ∧
      (t.byte (s.indexed 0)).toNat = (s.reg x).toNat / 100 ∧
      (t.byte (s.indexed 1)).toNat = (s.reg x).toNat / 10 % 10 ∧
      (t.byte (s.indexed 2)).toNat = (s.reg x).toNat % 10 ∧ Advanced 2 s t ∧
      ChangesOnly (fun p => p = .pc ∨ p = .byte (s.indexed 0) ∨ p = .byte (s.indexed 1) ∨ p = .byte (s.indexed 2)) s t

/-- FX55 stores `V[0]` to `V[x]` at `I` to `I + x`; `I` and every other byte are unchanged (R196; the range it completes in
is the spec's decision D11). -/
def Obligations.BlockStoreWritesRegisters : Prop :=
  ∀ (x : Reg) (s : State), s.indexed x.val ≤ 0xFFF →
    decode (formatFXK 0xF x 0x55) = some (.storeRegs x) ∧
    ∃ t, exec (.storeRegs x) s = .next t ∧ (∀ k : Reg, k ≤ x → t.byte (s.indexed k.val) = s.reg k) ∧ Advanced 2 s t ∧
      ChangesOnly (fun p => p = .pc ∨ ∃ k : Reg, k ≤ x ∧ p = .byte (s.indexed k.val)) s t

/-- FX65 loads `V[0]` to `V[x]` from `I` to `I + x`; `I`, the registers above `x` and all of RAM are unchanged (R197; the
range it completes in is the spec's decision D11). -/
def Obligations.BlockLoadReadsRegisters : Prop :=
  ∀ (x : Reg) (s : State), s.indexed x.val ≤ 0xFFF →
    decode (formatFXK 0xF x 0x65) = some (.loadRegs x) ∧
    ∃ t, exec (.loadRegs x) s = .next t ∧ (∀ k : Reg, k ≤ x → t.reg k = s.byte (s.indexed k.val)) ∧ Advanced 2 s t ∧
      ChangesOnly (fun p => p = .pc ∨ ∃ k : Reg, k ≤ x ∧ p = .reg k) s t

/-- A block store followed by a block load of the same `x`, in any state with the same RAM and `I`, gives the registers
back (R196, R197). -/
def Obligations.StoreThenLoadRoundTrips : Prop :=
  ∀ (x : Reg) (s t r u : State), s.indexed x.val ≤ 0xFFF → exec (.storeRegs x) s = .next t →
    r.i = t.i → (∀ a, r.byte a = t.byte a) → exec (.loadRegs x) r = .next u → ∀ k : Reg, k ≤ x → u.reg k = s.reg k

/-- R199 and R200: the RPL transfers move `V[0]` to `V[min(x, 7)]` and never fault; a load never writes `V[8]` to
`V[15]`. -/
def Obligations.RplTransfersClampToSeven : Prop :=
  ∀ (x : Reg) (s : State),
    (decode (formatFXK 0xF x 0x75) = some (.storeRpl x) ∧ ∃ t, exec (.storeRpl x) s = .next t ∧
      (∀ k : Fin 8, k.val ≤ x.val → t.rpl[k.val] = s.v[k.val]) ∧ Advanced 2 s t ∧
      ChangesOnly (fun p => p = .pc ∨ ∃ k : Fin 8, k.val ≤ x.val ∧ p = .rpl k) s t) ∧
    (decode (formatFXK 0xF x 0x85) = some (.loadRpl x) ∧ ∃ t, exec (.loadRpl x) s = .next t ∧
      (∀ k : Fin 8, k.val ≤ x.val → t.v[k.val] = s.rpl[k.val]) ∧ Advanced 2 s t ∧
      ChangesOnly (fun p => p = .pc ∨ ∃ k : Reg, k.val ≤ 7 ∧ k ≤ x ∧ p = .reg k) s t)

/-! ## Timers and input (43_timers_input.md) -/

/-- R220, R221, R222: the timers are read into and written from registers. -/
def Obligations.TimersMoveWithRegisters : Prop :=
  ∀ (x : Reg) (s : State),
    (decode (formatFXK 0xF x 0x07) = some (.ldVxDT x) ∧ ∃ t, exec (.ldVxDT x) s = .next t ∧ t.reg x = s.dt ∧
      Advanced 2 s t ∧ ChangesOnly (fun p => p = .reg x ∨ p = .pc) s t) ∧
    (decode (formatFXK 0xF x 0x15) = some (.ldDTVx x) ∧ ∃ t, exec (.ldDTVx x) s = .next t ∧ t.dt = s.reg x ∧
      Advanced 2 s t ∧ ChangesOnly (fun p => p = .dt ∨ p = .pc) s t) ∧
    (decode (formatFXK 0xF x 0x18) = some (.ldSTVx x) ∧ ∃ t, exec (.ldSTVx x) s = .next t ∧ t.st = s.reg x ∧
      Advanced 2 s t ∧ ChangesOnly (fun p => p = .st ∨ p = .pc) s t)

/-- The key skips test the key numbered by `V[x]`, for every number up to 15 (R224, R225; D12 decides what lies above). -/
def Obligations.KeySkipsTestTheKey : Prop :=
  ∀ (x : Reg) (k : Fin 16) (s : State), (s.reg x).toNat = k.val →
    (decode (formatFXK 0xE x 0x9E) = some (.skp x) ∧ ∃ t, exec (.skp x) s = .next t ∧
      (s.keyDown k = true → Advanced 4 s t) ∧ (s.keyDown k = false → Advanced 2 s t) ∧
      ChangesOnly (fun p => p = .pc) s t) ∧
    (decode (formatFXK 0xE x 0xA1) = some (.sknp x) ∧ ∃ t, exec (.sknp x) s = .next t ∧
      (s.keyDown k = false → Advanced 4 s t) ∧ (s.keyDown k = true → Advanced 2 s t) ∧
      ChangesOnly (fun p => p = .pc) s t)

/-- R226: with some key pressed FX0A captures the lowest-indexed one and advances; with none it changes nothing, and `pc`
still addresses it. -/
def Obligations.WaitForKeyTakesLowestKey : Prop :=
  ∀ (x : Reg) (s : State), decode (formatFXK 0xF x 0x0A) = some (.ldVxK x) ∧
    (∀ k : Fin 16, s.keyDown k = true → (∀ j, j < k → s.keyDown j = false) →
      ∃ t, exec (.ldVxK x) s = .next t ∧ (t.reg x).toNat = k.val ∧ Advanced 2 s t ∧
        ChangesOnly (fun p => p = .reg x ∨ p = .pc) s t) ∧
    ((∀ k, s.keyDown k = false) → exec (.ldVxK x) s = .next s)

/-! ## Display, mode and exit (44_display.md) -/

/-- R240: CLS clears every cell of the canvas in both modes, sets `DRAW`, and changes nothing else. -/
def Obligations.ClearScreenClearsAll : Prop :=
  ∀ s : State, decode 0x00E0 = some .cls ∧
    ∃ t, exec .cls s = .next t ∧ (∀ c, t.fb.lit c = false) ∧ t.draw = true ∧ Advanced 2 s t ∧
      ChangesOnly (fun p => p = .pc ∨ p = .draw ∨ ∃ c, p = .cell c) s t

/-- SCD moves the whole canvas `n` rows down in both modes, unsets the top `n` rows and sets `DRAW` (R241; the region, the
count and the flag are the spec's decisions D20, D21, D38, D39). -/
def Obligations.ScrollDownMovesRows : Prop :=
  ∀ (n : Nat) (s : State), n < 16 → decode (formatFN n) = some (.scd n) ∧
    ∃ t, exec (.scd n) s = .next t ∧
      (∀ x y, x < s.params.canvasW → y < 64 →
        (n ≤ y → t.fb.lit (x, y) = s.fb.lit (x, y - n)) ∧ (y < n → t.fb.lit (x, y) = false)) ∧
      t.draw = true ∧ Advanced 2 s t ∧ ChangesOnly (fun p => p = .pc ∨ p = .draw ∨ ∃ c, p = .cell c) s t

/-- SCR and SCL move the whole canvas 4 columns right and left, without wrap, unset the vacated columns and set `DRAW`
(R242, R243; the region, the count and the flag are the spec's decisions D20, D21). -/
def Obligations.ScrollSidewaysMovesColumns : Prop :=
  ∀ s : State,
    (decode 0x00FB = some .scr ∧ ∃ t, exec .scr s = .next t ∧
      (∀ x y, x < s.params.canvasW → y < 64 →
        (4 ≤ x → t.fb.lit (x, y) = s.fb.lit (x - 4, y)) ∧ (x < 4 → t.fb.lit (x, y) = false)) ∧
      t.draw = true ∧ Advanced 2 s t ∧ ChangesOnly (fun p => p = .pc ∨ p = .draw ∨ ∃ c, p = .cell c) s t) ∧
    (decode 0x00FC = some .scl ∧ ∃ t, exec .scl s = .next t ∧
      (∀ x y, x < s.params.canvasW → y < 64 →
        (x + 4 < s.params.canvasW → t.fb.lit (x, y) = s.fb.lit (x + 4, y)) ∧
        (s.params.canvasW ≤ x + 4 → t.fb.lit (x, y) = false)) ∧
      t.draw = true ∧ Advanced 2 s t ∧ ChangesOnly (fun p => p = .pc ∨ p = .draw ∨ ∃ c, p = .cell c) s t)

/-- LOW and HIGH select the mode and leave `FB` and `DRAW` as they are (R244, R245; that they do is the spec's decisions D21,
D22). -/
def Obligations.ModeSwitchKeepsScreen : Prop :=
  ∀ s : State,
    (decode 0x00FE = some .low ∧ ∃ t, exec .low s = .next t ∧ t.mode = .standard ∧ Advanced 2 s t ∧
      ChangesOnly (fun p => p = .mode ∨ p = .pc) s t) ∧
    (decode 0x00FF = some .high ∧ ∃ t, exec .high s = .next t ∧ t.mode = .super ∧ Advanced 2 s t ∧
      ChangesOnly (fun p => p = .mode ∨ p = .pc) s t)

/-- DXYN XORs the sprite onto the buffer (R250 to R253): every cell a set bit falls on is flipped and no other, `VF` says
whether one of them was set, `DRAW` whether one was unset. The range it completes in, the geometry, the bit order and the
order of reading are the spec's decisions D11, D17, D18, D19. -/
def Obligations.DrawXorsSprite : Prop :=
  ∀ (x y : Reg) (n : Nat) (s : State), n < 16 → s.i.toNat + height n * rowBytes s.mode n - 1 ≤ 0xFFF →
    decode (formatFXYN 0xD x y (BitVec.ofNat 4 n)) = some (.drw x y n) ∧
    ∃ t, exec (.drw x y n) s = .next t ∧
      (∀ c, SpriteHits s x y n c → t.fb.lit c = !s.fb.lit c) ∧
      IsFlag (t.reg 15) (∃ c, SpriteHits s x y n c ∧ s.fb.lit c = true) ∧
      (t.draw = true ↔ s.draw = true ∨ ∃ c, SpriteHits s x y n c ∧ s.fb.lit c = false) ∧ Advanced 2 s t ∧
      ChangesOnly (fun p => p = .pc ∨ p = .reg 15 ∨ p = .draw ∨ ∃ c, p = .cell c ∧ SpriteHits s x y n c) s t

/-- R254: a draw sets `DRAW` when a pixel goes from unset to set, and leaves it unchanged otherwise. -/
def Obligations.DrawFlagOnUnsetToSet : Prop :=
  ∀ (x y : Reg) (n : Nat) (s t : State), n < 16 → exec (.drw x y n) s = .next t →
    ((∃ c, s.fb.lit c = false ∧ t.fb.lit c = true) → t.draw = true) ∧
    ((¬ ∃ c, s.fb.lit c = false ∧ t.fb.lit c = true) → t.draw = s.draw)

/-- Drawing the same sprite twice restores every cell, and when the first draw collided with nothing and the sprite has a
set bit, the second sets `VF` (R250, R253, the source's example S8). Neither coordinate register is `VF`, which the first
draw writes. -/
def Obligations.DrawTwiceRestoresScreen : Prop :=
  ∀ (x y : Reg) (n : Nat) (s t u : State), n < 16 → x ≠ 15 → y ≠ 15 →
    s.i.toNat + height n * rowBytes s.mode n - 1 ≤ 0xFFF →
    exec (.drw x y n) s = .next t → exec (.drw x y n) t = .next u →
    (∀ c, u.fb.lit c = s.fb.lit c) ∧
    (t.reg 15 = 0 → (∃ c, SpriteHits s x y n c) → u.reg 15 = 1)

/-! ## Reset and load (70_reset_and_hazards.md) -/

/-- EXIT gives the state of first load with the cached ROM (R246, R42, R63; `DRAW`, `KEY` and `MODE` by the spec's decisions
D28, D37), keeps the parameters, and keeps the model's own fields (log 11). -/
def Obligations.ExitResetsTheCore : Prop :=
  decode 0x00FD = some .exit ∧
  ∀ s : State, ∃ t, exec .exit s = .next t ∧ FirstLoad s.romCache t ∧ ∀ p, modelPart p = true → p.same s t

/-- Reset does not depend on the state it starts from: two states with the same ROM and parameters reset to the same (R300),
but for the model's own fields, which it keeps (log 11). -/
def Obligations.ResetForgetsTheState : Prop :=
  ∀ s r t u : State, s.romCache = r.romCache → s.params = r.params → exec .exit s = .next t → exec .exit r = .next u →
    ∀ p, modelPart p = false → p.same t u

/-- The ROM load: at most 3584 bytes give the state of first load, in which the invariant holds; more are a load fault and
build no core (R303, D31; the refusal is the model's, log 13). -/
def Obligations.RomLoadBuildsCore : Prop :=
  ∀ (rom : List Byte) (p : Params),
    (rom.length ≤ 3584 → ∃ t, loadRom rom { State.reset with params := p } = .next t ∧ FirstLoad rom t ∧
      t.params = p ∧ Inv t) ∧
    (3584 < rom.length → loadRom rom { State.reset with params := p } = .refused (.romTooLarge rom.length))

/-- The reset state is the state of first load with no ROM (R42, R63; that no ROM is loaded is the model's choice, log 12),
and the invariant holds in it. -/
def Obligations.ResetHoldsInvariant : Prop := FirstLoad [] State.reset ∧ Inv State.reset

/-! ## Whole-machine rules -/

/-- Every step keeps the invariant: `I`, `pc` and the stack entries stay at most 0xFFF, memory and the frame buffer keep
their canonical forms inside RAM and the canvas (the model's own representation, logs 14 and 15), the ROM fits, and a fault
record is one R271 allows. -/
def Obligations.StepKeepsInvariant : Prop :=
  ∀ s t : State, Inv s → step s = .next t → Inv t

/-- An instruction that R39 does not list leaves `VF` as it was (R39; EXIT resets it). -/
def Obligations.OnlyListedInstructionsWriteVf : Prop :=
  ∀ (i : Instr) (s t : State), mayWriteVf i = false → exec i s = .next t → t.reg 15 = s.reg 15

/-- R25: every instruction that raises no fault advances `pc` by 2, but for the skips, which advance by 2 or 4, and the
jumps, call, return, key wait and exit; one that raises a fault leaves `pc` unchanged. -/
def Obligations.OrdinaryInstructionsAdvanceTwo : Prop :=
  ∀ (i : Instr) (s t : State), exec i s = .next t → s.fault = none →
    (t.fault = none → setsPc i = false → skips i = false → Advanced 2 s t) ∧
    (t.fault = none → skips i = true → Advanced 2 s t ∨ Advanced 4 s t) ∧
    (t.fault ≠ none → t.pc = s.pc)

/-- No step changes the ROM cache (R37) or the parameters (R41), and only a key snapshot or a reset changes the keys
(R34; which event is due is the model's own schedule, log 7). -/
def Obligations.StepsKeepRomParamsAndKeys : Prop :=
  ∀ s t : State, step s = .next t →
    t.romCache = s.romCache ∧ t.params = s.params ∧
    ((∃ k, t.keyDown k ≠ s.keyDown k) →
      (∃ k, s.dueEvent = .keySnapshot k) ∨ s.dueEvent = .resetReq ∨
      (s.dueEvent = .cycle ∧ decode s.fetchWord = some .exit))

/-- `DRAW` is sticky (R36): only CLS, the scrolls and DXYN set it, and only the draw acknowledgement and a reset clear
it (which event is due is the model's own schedule, log 7). -/
def Obligations.DrawFlagIsSticky : Prop :=
  ∀ s t : State, step s = .next t →
    (s.draw = true → t.draw = false →
      s.dueEvent = .drawAck ∨ s.dueEvent = .resetReq ∨ (s.dueEvent = .cycle ∧ decode s.fetchWord = some .exit)) ∧
    (s.draw = false → t.draw = true →
      s.dueEvent = .cycle ∧ ∃ i, decode s.fetchWord = some i ∧ mayDraw i = true)

/-- No instruction reads `DRAW` (R36) or `ST` (R31): changing them changes nothing else in what any instruction leaves. -/
def Obligations.DrawFlagAndSoundTimerAreUnread : Prop :=
  ∀ (i : Instr) (s t : State) (b : Bool) (c : Byte), exec i s = .next t →
    ∃ u, exec i { s with draw := b, st := c } = .next u ∧
      ∀ p : Part, p ≠ .draw → p ≠ .st → p.same t u

/-- A store is seen by the next fetch (R76, D23): FX55 that stores `V[0]` and `V[1]` over the next instruction word makes
the next step run the word it stored, when a `Cycle` is due at both (the schedule is the model's own, log 7). -/
def Obligations.StoredWordRunsNext : Prop :=
  ∀ (s : State) (j : Instr), s.dueEvent = .cycle → s.schedule.rest.due = .cycle → s.fault = none → s.pc.toNat + 3 ≤ 0xFFF →
    decode s.fetchWord = some (.storeRegs 1) → s.i.toNat = s.pc.toNat + 2 →
    decode (bigEndian (s.reg 0) (s.reg 1)) = some j →
    ∃ t, step s = .next t ∧ Advanced 2 s t ∧ step t = exec j t.takeEvent

/-- A cycle of a parked state, a jump to itself, changes nothing (R308; parked states are the spec's definition D44) but that
the event is taken from the schedule (the schedule is the model's own, log 7). -/
def Obligations.ParkedStateStays : Prop :=
  ∀ s : State, s.parked = true → s.dueEvent = .cycle → step s = .next s.takeEvent

/-- The host's events come one a step, in the order of the schedule, without end: the first ones, then a period for ever or
a sequence that is any whatever (R270, D1, D26: the order and number of events is free; the schedule is the model's own, log
7). A core that gets nothing but `Tick` runs for ever, and its timers count down to zero (R280) while nothing else of the
spec's state changes. -/
def Obligations.HostEventsComeInOrder : Prop :=
  (∀ s t : State, step s = .next t → t.schedule = s.schedule.rest) ∧
  (∀ (es : Schedule) (k : Nat) (h : k < es.first.length), (Schedule.rest^[k] es).due = es.first[k]) ∧
  (∀ (first : List Event) (e : Event) (es : List Event) (k : Nat),
    (Schedule.rest^[first.length + k] ⟨first, .repeating e es⟩).due = (e :: es).getD (k % (es.length + 1)) e) ∧
  (∀ (first : List Event) (n k : Nat),
    (Schedule.rest^[first.length + k] ⟨first, .free n⟩).due = Config.hostEvent (n + k)) ∧
  ∀ (s : State) (k : Nat), s.schedule = .always .tick → s.fault = none →
    ∃ t, Sys2Proof.core.run k s = .next t ∧ t.dt.toNat = s.dt.toNat - k ∧ t.st.toNat = s.st.toNat - k ∧
      ChangesOnly (fun p => p = .dt ∨ p = .st ∨ p = .gateSampled) s t
end

