-- ==== Sys2Proof/Laws/Decode.lean ====
section
/-! SUPPORT. The fields of each format, and what each format decodes to (30_encoding.md R92 to R97). -/

namespace Sys2Proof

/-! ## Fields as numbers -/

theorem fieldOp_toNat (w : Word) : (fieldOp w).toNat = w.toNat / 4096 := by
  simp only [fieldOp, BitVec.extractLsb'_toNat, Nat.shiftRight_eq_div_pow]; omega

theorem fieldX_val (w : Word) : (fieldX w).val = w.toNat / 256 % 16 := by
  simp [fieldX, Nat.shiftRight_eq_div_pow]

theorem fieldY_val (w : Word) : (fieldY w).val = w.toNat / 16 % 16 := by
  simp [fieldY, Nat.shiftRight_eq_div_pow]

theorem fieldN_toNat (w : Word) : (fieldN w).toNat = w.toNat % 16 := by
  simp [fieldN, BitVec.extractLsb'_toNat]

theorem fieldKK_toNat (w : Word) : (fieldKK w).toNat = w.toNat % 256 := by
  simp [fieldKK, BitVec.extractLsb'_toNat]

theorem fieldNNN_toNat (w : Word) : (fieldNNN w).toNat = w.toNat % 4096 := by
  simp [fieldNNN, BitVec.extractLsb'_toNat]

@[simp] theorem nib_toNat (x : Reg) : (nib x).toNat = x.val := rfl

theorem bigEndian_toNat (hi lo : Byte) : (bigEndian hi lo).toNat = hi.toNat * 256 + lo.toNat := by
  unfold bigEndian
  rw [BitVec.toNat_append, ← Nat.shiftLeft_add_eq_or_of_lt lo.isLt, Nat.shiftLeft_eq]

theorem highByte_toNat (w : Word) : (highByte w).toNat = w.toNat / 256 := by
  simp only [highByte, BitVec.extractLsb'_toNat, Nat.shiftRight_eq_div_pow]; omega

theorem lowByte_toNat (w : Word) : (lowByte w).toNat = w.toNat % 256 := by
  simp [lowByte, BitVec.extractLsb'_toNat]

/-- A word is its two bytes, the high byte first (R66). -/
@[simp] theorem bigEndian_bytes (w : Word) : bigEndian (highByte w) (lowByte w) = w := by
  apply BitVec.eq_of_toNat_eq
  rw [bigEndian_toNat, highByte_toNat, lowByte_toNat]; omega

@[simp] theorem highByte_bigEndian (hi lo : Byte) : highByte (bigEndian hi lo) = hi := by
  apply BitVec.eq_of_toNat_eq
  rw [highByte_toNat, bigEndian_toNat]; omega

@[simp] theorem lowByte_bigEndian (hi lo : Byte) : lowByte (bigEndian hi lo) = lo := by
  apply BitVec.eq_of_toNat_eq
  rw [lowByte_toNat, bigEndian_toNat]; omega

/-! ## Formats as numbers -/

theorem formatFA_toNat (op : BitVec 4) (nnn : BitVec 12) :
    (formatFA op nnn).toNat = op.toNat * 4096 + nnn.toNat := by
  unfold formatFA
  rw [BitVec.toNat_append, ← Nat.shiftLeft_add_eq_or_of_lt nnn.isLt, Nat.shiftLeft_eq]

theorem formatFXK_toNat (op : BitVec 4) (x : Reg) (kk : Byte) :
    (formatFXK op x kk).toNat = op.toNat * 4096 + x.val * 256 + kk.toNat := by
  unfold formatFXK
  rw [BitVec.toNat_append, BitVec.toNat_append, ← Nat.shiftLeft_add_eq_or_of_lt kk.isLt,
    ← Nat.shiftLeft_add_eq_or_of_lt (nib x).isLt, Nat.shiftLeft_eq, Nat.shiftLeft_eq, nib_toNat]
  omega

theorem formatFXYN_toNat (op : BitVec 4) (x y : Reg) (n : BitVec 4) :
    (formatFXYN op x y n).toNat = op.toNat * 4096 + x.val * 256 + y.val * 16 + n.toNat := by
  unfold formatFXYN
  rw [BitVec.toNat_append, BitVec.toNat_append, BitVec.toNat_append, ← Nat.shiftLeft_add_eq_or_of_lt n.isLt,
    ← Nat.shiftLeft_add_eq_or_of_lt (nib y).isLt, ← Nat.shiftLeft_add_eq_or_of_lt (nib x).isLt,
    Nat.shiftLeft_eq, Nat.shiftLeft_eq, Nat.shiftLeft_eq, nib_toNat, nib_toNat]
  omega

theorem formatFN_toNat (n : Nat) : (formatFN n).toNat = 0x00C0 + n % 16 := by
  unfold formatFN
  rw [BitVec.toNat_append, ← Nat.shiftLeft_add_eq_or_of_lt (BitVec.isLt _), Nat.shiftLeft_eq]
  simp [BitVec.toNat_ofNat]

/-! ## Fields of a format -/

section
variable (op : BitVec 4) (nnn : BitVec 12) (x y : Reg) (kk : Byte) (n : BitVec 4)

@[simp] theorem fieldOp_formatFA : fieldOp (formatFA op nnn) = op := by
  apply BitVec.eq_of_toNat_eq; rw [fieldOp_toNat, formatFA_toNat]; omega

@[simp] theorem fieldNNN_formatFA : fieldNNN (formatFA op nnn) = nnn := by
  apply BitVec.eq_of_toNat_eq; rw [fieldNNN_toNat, formatFA_toNat]; omega

@[simp] theorem fieldOp_formatFXK : fieldOp (formatFXK op x kk) = op := by
  apply BitVec.eq_of_toNat_eq; rw [fieldOp_toNat, formatFXK_toNat]; omega

@[simp] theorem fieldX_formatFXK : fieldX (formatFXK op x kk) = x := by
  apply Fin.ext; rw [fieldX_val, formatFXK_toNat]; omega

@[simp] theorem fieldKK_formatFXK : fieldKK (formatFXK op x kk) = kk := by
  apply BitVec.eq_of_toNat_eq; rw [fieldKK_toNat, formatFXK_toNat]; omega

@[simp] theorem fieldOp_formatFXYN : fieldOp (formatFXYN op x y n) = op := by
  apply BitVec.eq_of_toNat_eq; rw [fieldOp_toNat, formatFXYN_toNat]; omega

@[simp] theorem fieldX_formatFXYN : fieldX (formatFXYN op x y n) = x := by
  apply Fin.ext; rw [fieldX_val, formatFXYN_toNat]; omega

@[simp] theorem fieldY_formatFXYN : fieldY (formatFXYN op x y n) = y := by
  apply Fin.ext; rw [fieldY_val, formatFXYN_toNat]; omega

@[simp] theorem fieldN_formatFXYN : fieldN (formatFXYN op x y n) = n := by
  apply BitVec.eq_of_toNat_eq; rw [fieldN_toNat, formatFXYN_toNat]; omega

end

/-! ## A word is its fields in each format -/

theorem formatFA_fields (w : Word) : formatFA (fieldOp w) (fieldNNN w) = w := by
  apply BitVec.eq_of_toNat_eq; rw [formatFA_toNat, fieldOp_toNat, fieldNNN_toNat]; omega

theorem formatFXK_fields (w : Word) : formatFXK (fieldOp w) (fieldX w) (fieldKK w) = w := by
  apply BitVec.eq_of_toNat_eq; rw [formatFXK_toNat, fieldOp_toNat, fieldX_val, fieldKK_toNat]; omega

theorem formatFXYN_fields (w : Word) : formatFXYN (fieldOp w) (fieldX w) (fieldY w) (fieldN w) = w := by
  apply BitVec.eq_of_toNat_eq
  rw [formatFXYN_toNat, fieldOp_toNat, fieldX_val, fieldY_val, fieldN_toNat]; omega

/-! ## What each top nibble decodes to (R95) -/

section
variable (nnn : BitVec 12) (x y : Reg) (kk : Byte) (n : BitVec 4)

@[simp] theorem decode_format1 : decode (formatFA 0x1#4 nnn) = some (.jp nnn) := by simp [decode]

@[simp] theorem decode_format2 : decode (formatFA 0x2#4 nnn) = some (.call nnn) := by simp [decode]

@[simp] theorem decode_format3 : decode (formatFXK 0x3#4 x kk) = some (.seImm x kk) := by simp [decode]

@[simp] theorem decode_format4 : decode (formatFXK 0x4#4 x kk) = some (.sneImm x kk) := by simp [decode]

@[simp] theorem decode_format5 :
    decode (formatFXYN 0x5#4 x y n) = if n = 0 then some (.seReg x y) else none := by simp [decode]

@[simp] theorem decode_format6 : decode (formatFXK 0x6#4 x kk) = some (.ldImm x kk) := by simp [decode]

@[simp] theorem decode_format7 : decode (formatFXK 0x7#4 x kk) = some (.addImm x kk) := by simp [decode]

@[simp] theorem decode_format8 : decode (formatFXYN 0x8#4 x y n) = decode8 x y n := by simp [decode]

@[simp] theorem decode_format9 :
    decode (formatFXYN 0x9#4 x y n) = if n = 0 then some (.sneReg x y) else none := by simp [decode]

@[simp] theorem decode_formatA : decode (formatFA 0xA#4 nnn) = some (.ldI nnn) := by simp [decode]

@[simp] theorem decode_formatB : decode (formatFA 0xB#4 nnn) = some (.jpV0 nnn) := by simp [decode]

@[simp] theorem decode_formatC : decode (formatFXK 0xC#4 x kk) = some (.rnd x kk) := by simp [decode]

@[simp] theorem decode_formatD : decode (formatFXYN 0xD#4 x y n) = some (.drw x y n.toNat) := by simp [decode]

@[simp] theorem decode_formatE : decode (formatFXK 0xE#4 x kk) = decodeE x kk := by simp [decode]

@[simp] theorem decode_formatF : decode (formatFXK 0xF#4 x kk) = decodeF x kk := by simp [decode]

end

/-! ## What the masks of the opcode map keep of a word (R96) -/

theorem and_F000 (w : Word) : w &&& 0xF000 = formatFA (fieldOp w) 0 := by
  apply BitVec.eq_of_getLsbD_eq
  intro i hi
  unfold formatFA
  rw [BitVec.getLsbD_and, BitVec.getLsbD_append]
  interval_cases i <;> simp [fieldOp]

theorem and_F00F (w : Word) : w &&& 0xF00F = formatFXYN (fieldOp w) 0 0 (fieldN w) := by
  apply BitVec.eq_of_getLsbD_eq
  intro i hi
  unfold formatFXYN
  rw [BitVec.getLsbD_and, BitVec.getLsbD_append, BitVec.getLsbD_append, BitVec.getLsbD_append]
  interval_cases i <;> simp [fieldOp, fieldN, nib]

theorem and_F0FF (w : Word) : w &&& 0xF0FF = formatFXK (fieldOp w) 0 (fieldKK w) := by
  apply BitVec.eq_of_getLsbD_eq
  intro i hi
  unfold formatFXK
  rw [BitVec.getLsbD_and, BitVec.getLsbD_append, BitVec.getLsbD_append]
  interval_cases i <;> simp [fieldOp, fieldKK, nib]

theorem and_FFF0 (w : Word) : w &&& 0xFFF0 = (w.extractLsb' 4 12 ++ 0#4 : BitVec (12 + 4)) := by
  apply BitVec.eq_of_getLsbD_eq
  intro i hi
  rw [BitVec.getLsbD_and, BitVec.getLsbD_append]
  interval_cases i <;> simp

/-- The decoder answers an instruction or the word it cannot read, on any two bytes (R91, R98). -/
theorem decodeBytes_cons (hi lo : Byte) (rest : List Byte) :
    decodeBytes (hi :: lo :: rest) =
      (decode (bigEndian hi lo)).elim (.unknownOpcode (bigEndian hi lo)) (fun i => .ok i rest) := by
  cases h : decode (bigEndian hi lo) <;> simp [decodeBytes, h]

theorem decodeTableWord_eq (nbits w : Nat) : decodeTableWord nbits w = decode (tableWord nbits w) := by
  rw [decodeTableWord, decodeBytes_cons, bigEndian_bytes]
  cases decode (tableWord nbits w) <;> rfl

end Sys2Proof
end

