-- ==== Sys2Proof/Laws/FrameBuffer.lean ====
section
/-! SUPPORT. The laws of the frame buffer: what each operation makes of each cell, and that it keeps the canonical form. -/

namespace Sys2Proof.Machine

/-! ## The order of cells -/

theorem Pixel.before_iff (a b : Pixel) : Pixel.before a b = true ↔ a.2 < b.2 ∨ (a.2 = b.2 ∧ a.1 < b.1) := by
  simp [Pixel.before]

theorem Pixel.before_trans {a b c : Pixel} (h1 : Pixel.before a b = true) (h2 : Pixel.before b c = true) :
    Pixel.before a c = true := by
  rw [Pixel.before_iff] at *; omega

theorem Pixel.before_total {a b : Pixel} (h : a ≠ b) (h1 : ¬ Pixel.before a b = true) : Pixel.before b a = true := by
  rw [Pixel.before_iff] at *
  have : ¬ (a.1 = b.1 ∧ a.2 = b.2) := fun ⟨h1, h2⟩ => h (Prod.ext h1 h2)
  omega

theorem FrameBuffer.mem_insert (c d : Pixel) (fb : FrameBuffer) :
    d ∈ FrameBuffer.insert c fb ↔ d = c ∨ d ∈ fb := by
  induction fb with
  | nil => simp [FrameBuffer.insert]
  | cons e fb ih =>
    simp only [FrameBuffer.insert]
    split
    · simp
    · simp only [List.mem_cons, ih]; tauto

theorem FrameBuffer.ordered_iff (fb : FrameBuffer) :
    FrameBuffer.ordered fb = true ↔ fb.Pairwise (fun c d => Pixel.before c d = true) := by
  induction fb with
  | nil => simp [FrameBuffer.ordered]
  | cons c fb ih =>
    cases fb with
    | nil => simp [FrameBuffer.ordered]
    | cons d fb =>
      simp only [FrameBuffer.ordered, Bool.and_eq_true, ih]
      constructor
      · rintro ⟨h, hp⟩
        refine List.pairwise_cons.2 ⟨fun e he => ?_, hp⟩
        rcases List.mem_cons.1 he with rfl | he
        · exact h
        · exact Pixel.before_trans h ((List.pairwise_cons.1 hp).1 e he)
      · intro hp
        exact ⟨(List.pairwise_cons.1 hp).1 d (by simp), (List.pairwise_cons.1 hp).2⟩

theorem FrameBuffer.insert_pairwise {c : Pixel} {fb : FrameBuffer}
    (h : fb.Pairwise (fun c d => Pixel.before c d = true)) (hc : c ∉ fb) :
    (FrameBuffer.insert c fb).Pairwise (fun c d => Pixel.before c d = true) := by
  induction fb with
  | nil => simp [FrameBuffer.insert]
  | cons e fb ih =>
    obtain ⟨he, hm⟩ := List.pairwise_cons.1 h
    simp only [FrameBuffer.insert]
    split
    next hlt =>
      refine List.pairwise_cons.2 ⟨fun d hd => ?_, h⟩
      rcases List.mem_cons.1 hd with rfl | hd
      · exact hlt
      · exact Pixel.before_trans hlt (he d hd)
    next hlt =>
      refine List.pairwise_cons.2 ⟨fun d hd => ?_, ih hm fun hd => hc (by simp [hd])⟩
      rcases (FrameBuffer.mem_insert _ _ _).1 hd with rfl | hd
      · exact Pixel.before_total (fun h => hc (by simp [h])) hlt
      · exact he d hd

/-! ## Cells -/

theorem FrameBuffer.lit_iff (fb : FrameBuffer) (c : Pixel) : fb.lit c = true ↔ c ∈ fb := by
  simp [FrameBuffer.lit]

@[simp] theorem FrameBuffer.lit_nil (c : Pixel) : FrameBuffer.lit [] c = false := rfl

/-- `FB[x][y] <- not FB[x][y]` flips that cell and no other. -/
theorem FrameBuffer.lit_toggle (fb : FrameBuffer) (c d : Pixel) :
    (fb.toggle c).lit d = if d = c then !fb.lit c else fb.lit d := by
  rw [Bool.eq_iff_iff, FrameBuffer.lit_iff]
  unfold FrameBuffer.toggle
  by_cases hc : fb.lit c = true
  · rw [if_pos hc]
    by_cases hd : d = c
    · simp [hd, hc]
    · simp [hd, FrameBuffer.lit_iff]
  · rw [if_neg hc, FrameBuffer.mem_insert]
    by_cases hd : d = c
    · simp [hd, hc]
    · simp [hd, FrameBuffer.lit_iff]

/-- Scrolling down: row `y` shows the old row `y - n`, the top `n` rows are unset (R241). -/
theorem FrameBuffer.lit_down (fb : FrameBuffer) (n x y : Nat) (hy : y < Config.canvasH) :
    (fb.down n).lit (x, y) = (decide (n ≤ y) && fb.lit (x, y - n)) := by
  rw [Bool.eq_iff_iff, Bool.and_eq_true, decide_eq_true_eq, FrameBuffer.lit_iff, FrameBuffer.lit_iff]
  simp only [FrameBuffer.down, List.mem_filterMap]
  constructor
  · rintro ⟨c, hc, h⟩
    split at h <;> simp at h
    obtain ⟨h1, h2⟩ := h
    refine ⟨by omega, ?_⟩
    rwa [← h1, ← h2, Nat.add_sub_cancel]
  · rintro ⟨hn, h⟩
    refine ⟨_, h, ?_⟩
    rw [if_pos (show y - n + n < _ by omega)]
    simp [Nat.sub_add_cancel hn]

/-- Scrolling right: column `x` shows the old column `x - k`, the left `k` columns are unset (R242). -/
theorem FrameBuffer.lit_right (fb : FrameBuffer) (w k x y : Nat) (hx : x < w) :
    (fb.right w k).lit (x, y) = (decide (k ≤ x) && fb.lit (x - k, y)) := by
  rw [Bool.eq_iff_iff, Bool.and_eq_true, decide_eq_true_eq, FrameBuffer.lit_iff, FrameBuffer.lit_iff]
  simp only [FrameBuffer.right, List.mem_filterMap]
  constructor
  · rintro ⟨c, hc, h⟩
    split at h <;> simp at h
    obtain ⟨h1, h2⟩ := h
    refine ⟨by omega, ?_⟩
    rwa [← h1, ← h2, Nat.add_sub_cancel]
  · rintro ⟨hn, h⟩
    refine ⟨_, h, ?_⟩
    rw [if_pos (show x - k + k < _ by omega)]
    simp [Nat.sub_add_cancel hn]

/-- Scrolling left: column `x` shows the old column `x + k`, the right `k` columns are unset (R243). -/
theorem FrameBuffer.lit_left (fb : FrameBuffer) (w k x y : Nat) :
    (fb.left w k).lit (x, y) = (decide (x + k < w) && fb.lit (x + k, y)) := by
  rw [Bool.eq_iff_iff, Bool.and_eq_true, decide_eq_true_eq, FrameBuffer.lit_iff, FrameBuffer.lit_iff]
  simp only [FrameBuffer.left, List.mem_filterMap]
  constructor
  · rintro ⟨c, hc, h⟩
    split at h <;> simp at h
    next hk =>
    obtain ⟨h1, h2⟩ := h
    have h3 : x + k = c.1 := by omega
    exact ⟨by omega, by rw [h3, ← h2]; exact hc⟩
  · rintro ⟨hn, h⟩
    refine ⟨_, h, ?_⟩
    rw [if_pos (by simp only; omega)]
    simp

/-! ## The canonical form -/

theorem FrameBuffer.wf_iff (w : Nat) (fb : FrameBuffer) :
    fb.wf w = true ↔ fb.Pairwise (fun c d => Pixel.before c d = true) ∧
      ∀ c ∈ fb, c.1 < w ∧ c.2 < Config.canvasH := by
  simp [FrameBuffer.wf, FrameBuffer.ordered_iff]

@[simp] theorem FrameBuffer.wf_nil (w : Nat) : FrameBuffer.wf w [] = true := rfl

theorem FrameBuffer.wf_toggle {w : Nat} {fb : FrameBuffer} (h : fb.wf w = true) {c : Pixel} (hx : c.1 < w)
    (hy : c.2 < Config.canvasH) : (fb.toggle c).wf w = true := by
  obtain ⟨hp, hc⟩ := (FrameBuffer.wf_iff w fb).1 h
  rw [FrameBuffer.wf_iff]
  unfold FrameBuffer.toggle
  split
  · exact ⟨hp.filter _, fun d hd => hc d (List.mem_filter.1 hd).1⟩
  next hl =>
    refine ⟨FrameBuffer.insert_pairwise hp (fun hm => hl ((FrameBuffer.lit_iff _ _).2 hm)), fun d hd => ?_⟩
    rcases (FrameBuffer.mem_insert _ _ _).1 hd with rfl | hd
    · exact ⟨hx, hy⟩
    · exact hc d hd

/-- A scroll keeps the order of the cells it keeps. -/
theorem FrameBuffer.shifted_pairwise {fb : FrameBuffer} (h : fb.Pairwise (fun c d => Pixel.before c d = true))
    (f : Pixel → Option Pixel)
    (hf : ∀ c d c' d', Pixel.before c d = true → f c = some c' → f d = some d' → Pixel.before c' d' = true) :
    (fb.filterMap f).Pairwise (fun c d => Pixel.before c d = true) := by
  rw [List.pairwise_filterMap]
  exact h.imp fun hcd c' hc' d' hd' => hf _ _ _ _ hcd hc' hd'

theorem FrameBuffer.wf_down {w : Nat} {fb : FrameBuffer} (h : fb.wf w = true) (n : Nat) : (fb.down n).wf w = true := by
  obtain ⟨hp, hc⟩ := (FrameBuffer.wf_iff w fb).1 h
  rw [FrameBuffer.wf_iff]
  refine ⟨FrameBuffer.shifted_pairwise hp _ fun c d c' d' hcd h1 h2 => ?_, fun c hm => ?_⟩
  · split at h1 <;> simp at h1
    split at h2 <;> simp at h2
    subst h1 h2
    rw [Pixel.before_iff] at *; simp only; omega
  · obtain ⟨d, hd, h1⟩ := List.mem_filterMap.1 hm
    split at h1 <;> simp at h1
    subst h1
    exact ⟨(hc d hd).1, by assumption⟩

theorem FrameBuffer.wf_right {w : Nat} {fb : FrameBuffer} (h : fb.wf w = true) (k : Nat) :
    (fb.right w k).wf w = true := by
  obtain ⟨hp, hc⟩ := (FrameBuffer.wf_iff w fb).1 h
  rw [FrameBuffer.wf_iff]
  refine ⟨FrameBuffer.shifted_pairwise hp _ fun c d c' d' hcd h1 h2 => ?_, fun c hm => ?_⟩
  · split at h1 <;> simp at h1
    split at h2 <;> simp at h2
    subst h1 h2
    rw [Pixel.before_iff] at *; simp only; omega
  · obtain ⟨d, hd, h1⟩ := List.mem_filterMap.1 hm
    split at h1 <;> simp at h1
    subst h1
    exact ⟨by assumption, (hc d hd).2⟩

theorem FrameBuffer.wf_left {w : Nat} {fb : FrameBuffer} (h : fb.wf w = true) (k : Nat) :
    (fb.left w k).wf w = true := by
  obtain ⟨hp, hc⟩ := (FrameBuffer.wf_iff w fb).1 h
  rw [FrameBuffer.wf_iff]
  refine ⟨FrameBuffer.shifted_pairwise hp _ fun c d c' d' hcd h1 h2 => ?_, fun c hm => ?_⟩
  · split at h1 <;> simp at h1
    split at h2 <;> simp at h2
    subst h1 h2
    rw [Pixel.before_iff] at *; simp only; omega
  · obtain ⟨d, hd, h1⟩ := List.mem_filterMap.1 hm
    split at h1 <;> simp at h1
    subst h1
    exact ⟨by simp only; omega, (hc d hd).2⟩

end Sys2Proof.Machine
end

