-- ==== Sys2Proof/Laws/Memory.lean ====
section
/-! SUPPORT. The laws of RAM: a read after a write, what the canonical form keeps, and the contents after a ROM load. -/

namespace Sys2Proof.Machine

/-! ## The list -/

theorem Memory.mem_insert (c d : Host.Cell) (m : Memory) : d ∈ Memory.insert c m ↔ d = c ∨ d ∈ m := by
  induction m with
  | nil => simp [Memory.insert]
  | cons e m ih =>
    simp only [Memory.insert]
    split
    · simp
    · simp only [List.mem_cons, ih]; tauto

theorem Memory.rising_iff (m : Memory) : Memory.rising m = true ↔ m.Pairwise (fun c d => c.1 < d.1) := by
  induction m with
  | nil => simp [Memory.rising]
  | cons c m ih =>
    cases m with
    | nil => simp [Memory.rising]
    | cons d m =>
      simp only [Memory.rising, Bool.and_eq_true, decide_eq_true_eq, ih]
      constructor
      · rintro ⟨h, hp⟩
        refine List.pairwise_cons.2 ⟨fun e he => ?_, hp⟩
        rcases List.mem_cons.1 he with rfl | he
        · exact h
        · exact h.trans ((List.pairwise_cons.1 hp).1 e he)
      · intro hp
        exact ⟨(List.pairwise_cons.1 hp).1 d (by simp), (List.pairwise_cons.1 hp).2⟩

theorem Memory.insert_pairwise {c : Host.Cell} {m : Memory} (h : m.Pairwise (fun c d => c.1 < d.1))
    (hc : ∀ d ∈ m, d.1 ≠ c.1) : (Memory.insert c m).Pairwise (fun c d => c.1 < d.1) := by
  induction m with
  | nil => simp [Memory.insert]
  | cons e m ih =>
    obtain ⟨he, hm⟩ := List.pairwise_cons.1 h
    simp only [Memory.insert]
    split
    next hlt =>
      refine List.pairwise_cons.2 ⟨fun d hd => ?_, h⟩
      rcases List.mem_cons.1 hd with rfl | hd
      · exact hlt
      · exact hlt.trans (he d hd)
    next hlt =>
      refine List.pairwise_cons.2 ⟨fun d hd => ?_, ih hm fun d hd => hc d (by simp [hd])⟩
      rcases (Memory.mem_insert _ _ _).1 hd with rfl | hd
      · have := hc e (by simp); omega
      · exact he d hd

/-- The first cell at an address, after an insertion of a cell whose address is new. -/
theorem Memory.find_insert (c : Host.Cell) (m : Memory) (a : Nat) (h : ∀ d ∈ m, d.1 ≠ c.1) :
    (Memory.insert c m).find? (fun d => d.1 == a) =
      if a = c.1 then some c else m.find? (fun d => d.1 == a) := by
  induction m with
  | nil =>
    by_cases ha : a = c.1
    · simp [Memory.insert, ha]
    · simp [Memory.insert, ha, Ne.symm ha]
  | cons e m ih =>
    have he : e.1 ≠ c.1 := h e (by simp)
    simp only [Memory.insert]
    split
    · by_cases ha : a = c.1
      · subst ha; simp
      · rw [List.find?_cons, beq_eq_false_iff_ne.2 (Ne.symm ha), if_neg ha]
    · rw [List.find?_cons, ih fun d hd => h d (by simp [hd]), List.find?_cons]
      by_cases ha : a = c.1
      · rw [beq_eq_false_iff_ne.2 (by rw [ha]; exact he), if_pos ha]
      · simp [ha]

theorem Memory.find_filter (m : Memory) (a b : Nat) :
    (m.filter (fun c => c.1 != a)).find? (fun d => d.1 == b) =
      if b = a then none else m.find? (fun d => d.1 == b) := by
  rw [List.find?_filter]
  by_cases hb : b = a
  · subst hb; simp
  · rw [if_neg hb]
    congr 1
    funext c
    by_cases hc : c.1 = b
    · simp [hc, hb]
    · simp [hc]

/-! ## Reading and writing -/

@[simp] theorem Memory.read_nil (p : Params) (a : Nat) : Memory.read p [] a = unlistedByte p a := rfl

/-- A read after a write: the byte written at its address, the old byte at every other. -/
theorem Memory.read_write (p : Params) (m : Memory) (a b : Nat) (x : Byte) :
    (m.write p a x).read p b = if b = a then x else m.read p b := by
  unfold Memory.write
  split
  next h =>
    rw [Memory.read, Memory.find_filter]
    by_cases hb : b = a
    · simp [hb, h]
    · simp [hb, Memory.read]
  next h =>
    rw [Memory.read, Memory.find_insert _ _ _ (by simp), Memory.find_filter]
    by_cases hb : b = a
    · simp [hb]
    · simp [hb, Memory.read]

@[simp] theorem Memory.read_write_same (p : Params) (m : Memory) (a : Nat) (x : Byte) :
    (m.write p a x).read p a = x := by simp [Memory.read_write]

theorem Memory.read_write_other (p : Params) (m : Memory) {a b : Nat} (x : Byte) (h : b ≠ a) :
    (m.write p a x).read p b = m.read p b := by simp [Memory.read_write, h]

/-! ## The canonical form -/

theorem Memory.wf_iff (p : Params) (m : Memory) :
    m.wf p = true ↔ m.Pairwise (fun c d => c.1 < d.1) ∧
      ∀ c ∈ m, c.1 < Config.ramSize ∧ c.2 ≠ unlistedByte p c.1 := by
  simp [Memory.wf, Memory.rising_iff]

@[simp] theorem Memory.wf_nil (p : Params) : Memory.wf p [] = true := rfl

/-- Every write inside RAM keeps the canonical form. -/
theorem Memory.wf_write {p : Params} {m : Memory} (h : m.wf p = true) {a : Nat} (ha : a < Config.ramSize) (x : Byte) :
    (m.write p a x).wf p = true := by
  obtain ⟨hp, hc⟩ := (Memory.wf_iff p m).1 h
  have hf : (m.filter (fun c => c.1 != a)).Pairwise (fun c d => c.1 < d.1) := hp.filter _
  rw [Memory.wf_iff]
  unfold Memory.write
  split
  · exact ⟨hf, fun c hm => hc c (List.mem_filter.1 hm).1⟩
  next hx =>
    refine ⟨Memory.insert_pairwise hf (by simp), fun c hm => ?_⟩
    rcases (Memory.mem_insert _ _ _).1 hm with rfl | hm
    · exact ⟨ha, hx⟩
    · exact hc c (List.mem_filter.1 hm).1

/-! ## After a ROM load (R63) -/

theorem unlistedByte_program (p : Params) {a : Nat} (h : Config.programStart ≤ a) : unlistedByte p a = 0 := by
  simp only [Config.programStart] at h
  unfold unlistedByte
  rw [dif_neg (by simp only [Config.fontLoBase]; omega),
    if_neg (by simp only [Config.fontHiBase, Config.fontHiStride, Config.fontHiCount]; omega)]

theorem romCells_mem {p : Params} {rom : List Byte} {c : Host.Cell} (h : c ∈ romCells p rom) :
    Config.programStart ≤ c.1 ∧ c.1 < Config.programStart + rom.length ∧ c.2 ≠ unlistedByte p c.1 := by
  simp only [romCells, List.mem_filterMap] at h
  obtain ⟨⟨b, a⟩, hm, hc⟩ := h
  have := List.mem_zipIdx hm
  split at hc
  · simp at hc
  next hne =>
    obtain rfl := Option.some.inj hc
    exact ⟨this.1, by omega, hne⟩

theorem romCells_pairwise (p : Params) (rom : List Byte) (k : Nat) :
    ((rom.zipIdx k).filterMap fun c => if c.1 = unlistedByte p c.2 then none else some (c.2, c.1)).Pairwise
      (fun c d : Host.Cell => c.1 < d.1) := by
  induction rom generalizing k with
  | nil => simp
  | cons b rom ih =>
    rw [List.zipIdx_cons, List.filterMap_cons]
    split
    · exact ih _
    next d hd =>
      refine List.pairwise_cons.2 ⟨fun e he => ?_, ih _⟩
      simp only [List.mem_filterMap] at he
      obtain ⟨⟨b', a'⟩, hm, hc⟩ := he
      have := List.mem_zipIdx hm
      split at hd <;> simp at hd
      split at hc <;> simp at hc
      subst hd hc
      simp only; omega

theorem romCells_wf (p : Params) {rom : List Byte} (h : rom.length ≤ Config.romMax) : (romCells p rom).wf p = true := by
  rw [Memory.wf_iff]
  refine ⟨romCells_pairwise p rom _, fun c hc => ?_⟩
  obtain ⟨_, h2, h3⟩ := romCells_mem hc
  refine ⟨?_, h3⟩
  simp only [Config.romMax, Config.programStart, Config.ramSize] at *
  omega

/-- The byte at `k + j` of a loaded list is its `j`-th byte; every other address reads as unlisted. -/
theorem romCells_find (p : Params) (rom : List Byte) (k a : Nat) :
    Memory.read p ((rom.zipIdx k).filterMap fun c => if c.1 = unlistedByte p c.2 then none else some (c.2, c.1)) a =
      if k ≤ a then (rom[a - k]?).getD (unlistedByte p a) else unlistedByte p a := by
  induction rom generalizing k with
  | nil => simp
  | cons b rom ih =>
    have ih' := ih (k + 1)
    rw [List.zipIdx_cons, List.filterMap_cons]
    by_cases hb : b = unlistedByte p k
    · simp only [hb, if_true]
      rw [ih']
      rcases lt_trichotomy a k with h | h | h
      · simp [show ¬ k + 1 ≤ a by omega, show ¬ k ≤ a by omega]
      · subst h; simp
      · simp [show k + 1 ≤ a by omega, show k ≤ a by omega, show a - k = (a - (k + 1)) + 1 by omega]
    · simp only [hb, if_false]
      unfold Memory.read at ih' ⊢
      rw [List.find?_cons]
      rcases lt_trichotomy a k with h | h | h
      · rw [show (k == a) = false by simp; omega]
        simp only
        rw [ih']
        simp [show ¬ k + 1 ≤ a by omega, show ¬ k ≤ a by omega]
      · subst h; simp
      · rw [show (k == a) = false by simp; omega]
        simp only
        rw [ih']
        simp [show k + 1 ≤ a by omega, show k ≤ a by omega, show a - k = (a - (k + 1)) + 1 by omega]

/-- RAM after a ROM load: the ROM's bytes from `PROGRAM_START` on, and the unlisted bytes elsewhere (R63). -/
theorem romCells_read (p : Params) (rom : List Byte) (a : Nat) :
    Memory.read p (romCells p rom) a =
      if Config.programStart ≤ a then (rom[a - Config.programStart]?).getD (unlistedByte p a)
      else unlistedByte p a := romCells_find p rom _ a

end Sys2Proof.Machine
end

