-- ==== Sys2Proof/Laws/State.lean ====
section
/-! SUPPORT. One lemma per field per update of the state, true by unfolding: no later proof unfolds a record update. -/

namespace Sys2Proof.Machine

variable (s : State)

@[simp] theorem State.setReg_v (x : Reg) (b : Byte) : (s.setReg x b).v = s.v.set x.val b := rfl
@[simp] theorem State.setReg_i (x : Reg) (b : Byte) : (s.setReg x b).i = s.i := rfl
@[simp] theorem State.setReg_pc (x : Reg) (b : Byte) : (s.setReg x b).pc = s.pc := rfl
@[simp] theorem State.setReg_stack (x : Reg) (b : Byte) : (s.setReg x b).stack = s.stack := rfl
@[simp] theorem State.setReg_sp (x : Reg) (b : Byte) : (s.setReg x b).sp = s.sp := rfl
@[simp] theorem State.setReg_dt (x : Reg) (b : Byte) : (s.setReg x b).dt = s.dt := rfl
@[simp] theorem State.setReg_st (x : Reg) (b : Byte) : (s.setReg x b).st = s.st := rfl
@[simp] theorem State.setReg_fb (x : Reg) (b : Byte) : (s.setReg x b).fb = s.fb := rfl
@[simp] theorem State.setReg_mode (x : Reg) (b : Byte) : (s.setReg x b).mode = s.mode := rfl
@[simp] theorem State.setReg_key (x : Reg) (b : Byte) : (s.setReg x b).key = s.key := rfl
@[simp] theorem State.setReg_rpl (x : Reg) (b : Byte) : (s.setReg x b).rpl = s.rpl := rfl
@[simp] theorem State.setReg_draw (x : Reg) (b : Byte) : (s.setReg x b).draw = s.draw := rfl
@[simp] theorem State.setReg_romCache (x : Reg) (b : Byte) : (s.setReg x b).romCache = s.romCache := rfl
@[simp] theorem State.setReg_fault (x : Reg) (b : Byte) : (s.setReg x b).fault = s.fault := rfl
@[simp] theorem State.setReg_mem (x : Reg) (b : Byte) : (s.setReg x b).mem = s.mem := rfl
@[simp] theorem State.setReg_params (x : Reg) (b : Byte) : (s.setReg x b).params = s.params := rfl
@[simp] theorem State.setReg_rngDraws (x : Reg) (b : Byte) : (s.setReg x b).rngDraws = s.rngDraws := rfl
@[simp] theorem State.setReg_schedule (x : Reg) (b : Byte) : (s.setReg x b).schedule = s.schedule := rfl
@[simp] theorem State.setReg_frameTaken (x : Reg) (b : Byte) : (s.setReg x b).frameTaken = s.frameTaken := rfl
@[simp] theorem State.setReg_gateSampled (x : Reg) (b : Byte) : (s.setReg x b).gateSampled = s.gateSampled := rfl

@[simp] theorem State.setIndex_v (a : Word) : (s.setIndex a).v = s.v := rfl
@[simp] theorem State.setIndex_i (a : Word) : (s.setIndex a).i = a := rfl
@[simp] theorem State.setIndex_pc (a : Word) : (s.setIndex a).pc = s.pc := rfl
@[simp] theorem State.setIndex_stack (a : Word) : (s.setIndex a).stack = s.stack := rfl
@[simp] theorem State.setIndex_sp (a : Word) : (s.setIndex a).sp = s.sp := rfl
@[simp] theorem State.setIndex_dt (a : Word) : (s.setIndex a).dt = s.dt := rfl
@[simp] theorem State.setIndex_st (a : Word) : (s.setIndex a).st = s.st := rfl
@[simp] theorem State.setIndex_fb (a : Word) : (s.setIndex a).fb = s.fb := rfl
@[simp] theorem State.setIndex_mode (a : Word) : (s.setIndex a).mode = s.mode := rfl
@[simp] theorem State.setIndex_key (a : Word) : (s.setIndex a).key = s.key := rfl
@[simp] theorem State.setIndex_rpl (a : Word) : (s.setIndex a).rpl = s.rpl := rfl
@[simp] theorem State.setIndex_draw (a : Word) : (s.setIndex a).draw = s.draw := rfl
@[simp] theorem State.setIndex_romCache (a : Word) : (s.setIndex a).romCache = s.romCache := rfl
@[simp] theorem State.setIndex_fault (a : Word) : (s.setIndex a).fault = s.fault := rfl
@[simp] theorem State.setIndex_mem (a : Word) : (s.setIndex a).mem = s.mem := rfl
@[simp] theorem State.setIndex_params (a : Word) : (s.setIndex a).params = s.params := rfl
@[simp] theorem State.setIndex_rngDraws (a : Word) : (s.setIndex a).rngDraws = s.rngDraws := rfl
@[simp] theorem State.setIndex_schedule (a : Word) : (s.setIndex a).schedule = s.schedule := rfl
@[simp] theorem State.setIndex_frameTaken (a : Word) : (s.setIndex a).frameTaken = s.frameTaken := rfl
@[simp] theorem State.setIndex_gateSampled (a : Word) : (s.setIndex a).gateSampled = s.gateSampled := rfl

@[simp] theorem State.setPc_v (a : Word) : (s.setPc a).v = s.v := rfl
@[simp] theorem State.setPc_i (a : Word) : (s.setPc a).i = s.i := rfl
@[simp] theorem State.setPc_pc (a : Word) : (s.setPc a).pc = a := rfl
@[simp] theorem State.setPc_stack (a : Word) : (s.setPc a).stack = s.stack := rfl
@[simp] theorem State.setPc_sp (a : Word) : (s.setPc a).sp = s.sp := rfl
@[simp] theorem State.setPc_dt (a : Word) : (s.setPc a).dt = s.dt := rfl
@[simp] theorem State.setPc_st (a : Word) : (s.setPc a).st = s.st := rfl
@[simp] theorem State.setPc_fb (a : Word) : (s.setPc a).fb = s.fb := rfl
@[simp] theorem State.setPc_mode (a : Word) : (s.setPc a).mode = s.mode := rfl
@[simp] theorem State.setPc_key (a : Word) : (s.setPc a).key = s.key := rfl
@[simp] theorem State.setPc_rpl (a : Word) : (s.setPc a).rpl = s.rpl := rfl
@[simp] theorem State.setPc_draw (a : Word) : (s.setPc a).draw = s.draw := rfl
@[simp] theorem State.setPc_romCache (a : Word) : (s.setPc a).romCache = s.romCache := rfl
@[simp] theorem State.setPc_fault (a : Word) : (s.setPc a).fault = s.fault := rfl
@[simp] theorem State.setPc_mem (a : Word) : (s.setPc a).mem = s.mem := rfl
@[simp] theorem State.setPc_params (a : Word) : (s.setPc a).params = s.params := rfl
@[simp] theorem State.setPc_rngDraws (a : Word) : (s.setPc a).rngDraws = s.rngDraws := rfl
@[simp] theorem State.setPc_schedule (a : Word) : (s.setPc a).schedule = s.schedule := rfl
@[simp] theorem State.setPc_frameTaken (a : Word) : (s.setPc a).frameTaken = s.frameTaken := rfl
@[simp] theorem State.setPc_gateSampled (a : Word) : (s.setPc a).gateSampled = s.gateSampled := rfl

@[simp] theorem State.setStack_v (k : Fin 16) (a : Word) : (s.setStack k a).v = s.v := rfl
@[simp] theorem State.setStack_i (k : Fin 16) (a : Word) : (s.setStack k a).i = s.i := rfl
@[simp] theorem State.setStack_pc (k : Fin 16) (a : Word) : (s.setStack k a).pc = s.pc := rfl
@[simp] theorem State.setStack_stack (k : Fin 16) (a : Word) : (s.setStack k a).stack = s.stack.set k.val a := rfl
@[simp] theorem State.setStack_sp (k : Fin 16) (a : Word) : (s.setStack k a).sp = s.sp := rfl
@[simp] theorem State.setStack_dt (k : Fin 16) (a : Word) : (s.setStack k a).dt = s.dt := rfl
@[simp] theorem State.setStack_st (k : Fin 16) (a : Word) : (s.setStack k a).st = s.st := rfl
@[simp] theorem State.setStack_fb (k : Fin 16) (a : Word) : (s.setStack k a).fb = s.fb := rfl
@[simp] theorem State.setStack_mode (k : Fin 16) (a : Word) : (s.setStack k a).mode = s.mode := rfl
@[simp] theorem State.setStack_key (k : Fin 16) (a : Word) : (s.setStack k a).key = s.key := rfl
@[simp] theorem State.setStack_rpl (k : Fin 16) (a : Word) : (s.setStack k a).rpl = s.rpl := rfl
@[simp] theorem State.setStack_draw (k : Fin 16) (a : Word) : (s.setStack k a).draw = s.draw := rfl
@[simp] theorem State.setStack_romCache (k : Fin 16) (a : Word) : (s.setStack k a).romCache = s.romCache := rfl
@[simp] theorem State.setStack_fault (k : Fin 16) (a : Word) : (s.setStack k a).fault = s.fault := rfl
@[simp] theorem State.setStack_mem (k : Fin 16) (a : Word) : (s.setStack k a).mem = s.mem := rfl
@[simp] theorem State.setStack_params (k : Fin 16) (a : Word) : (s.setStack k a).params = s.params := rfl
@[simp] theorem State.setStack_rngDraws (k : Fin 16) (a : Word) : (s.setStack k a).rngDraws = s.rngDraws := rfl
@[simp] theorem State.setStack_schedule (k : Fin 16) (a : Word) : (s.setStack k a).schedule = s.schedule := rfl
@[simp] theorem State.setStack_frameTaken (k : Fin 16) (a : Word) : (s.setStack k a).frameTaken = s.frameTaken := rfl
@[simp] theorem State.setStack_gateSampled (k : Fin 16) (a : Word) : (s.setStack k a).gateSampled = s.gateSampled := rfl

@[simp] theorem State.setSp_v (k : Fin 16) : (s.setSp k).v = s.v := rfl
@[simp] theorem State.setSp_i (k : Fin 16) : (s.setSp k).i = s.i := rfl
@[simp] theorem State.setSp_pc (k : Fin 16) : (s.setSp k).pc = s.pc := rfl
@[simp] theorem State.setSp_stack (k : Fin 16) : (s.setSp k).stack = s.stack := rfl
@[simp] theorem State.setSp_sp (k : Fin 16) : (s.setSp k).sp = k := rfl
@[simp] theorem State.setSp_dt (k : Fin 16) : (s.setSp k).dt = s.dt := rfl
@[simp] theorem State.setSp_st (k : Fin 16) : (s.setSp k).st = s.st := rfl
@[simp] theorem State.setSp_fb (k : Fin 16) : (s.setSp k).fb = s.fb := rfl
@[simp] theorem State.setSp_mode (k : Fin 16) : (s.setSp k).mode = s.mode := rfl
@[simp] theorem State.setSp_key (k : Fin 16) : (s.setSp k).key = s.key := rfl
@[simp] theorem State.setSp_rpl (k : Fin 16) : (s.setSp k).rpl = s.rpl := rfl
@[simp] theorem State.setSp_draw (k : Fin 16) : (s.setSp k).draw = s.draw := rfl
@[simp] theorem State.setSp_romCache (k : Fin 16) : (s.setSp k).romCache = s.romCache := rfl
@[simp] theorem State.setSp_fault (k : Fin 16) : (s.setSp k).fault = s.fault := rfl
@[simp] theorem State.setSp_mem (k : Fin 16) : (s.setSp k).mem = s.mem := rfl
@[simp] theorem State.setSp_params (k : Fin 16) : (s.setSp k).params = s.params := rfl
@[simp] theorem State.setSp_rngDraws (k : Fin 16) : (s.setSp k).rngDraws = s.rngDraws := rfl
@[simp] theorem State.setSp_schedule (k : Fin 16) : (s.setSp k).schedule = s.schedule := rfl
@[simp] theorem State.setSp_frameTaken (k : Fin 16) : (s.setSp k).frameTaken = s.frameTaken := rfl
@[simp] theorem State.setSp_gateSampled (k : Fin 16) : (s.setSp k).gateSampled = s.gateSampled := rfl

@[simp] theorem State.setDt_v (b : Byte) : (s.setDt b).v = s.v := rfl
@[simp] theorem State.setDt_i (b : Byte) : (s.setDt b).i = s.i := rfl
@[simp] theorem State.setDt_pc (b : Byte) : (s.setDt b).pc = s.pc := rfl
@[simp] theorem State.setDt_stack (b : Byte) : (s.setDt b).stack = s.stack := rfl
@[simp] theorem State.setDt_sp (b : Byte) : (s.setDt b).sp = s.sp := rfl
@[simp] theorem State.setDt_dt (b : Byte) : (s.setDt b).dt = b := rfl
@[simp] theorem State.setDt_st (b : Byte) : (s.setDt b).st = s.st := rfl
@[simp] theorem State.setDt_fb (b : Byte) : (s.setDt b).fb = s.fb := rfl
@[simp] theorem State.setDt_mode (b : Byte) : (s.setDt b).mode = s.mode := rfl
@[simp] theorem State.setDt_key (b : Byte) : (s.setDt b).key = s.key := rfl
@[simp] theorem State.setDt_rpl (b : Byte) : (s.setDt b).rpl = s.rpl := rfl
@[simp] theorem State.setDt_draw (b : Byte) : (s.setDt b).draw = s.draw := rfl
@[simp] theorem State.setDt_romCache (b : Byte) : (s.setDt b).romCache = s.romCache := rfl
@[simp] theorem State.setDt_fault (b : Byte) : (s.setDt b).fault = s.fault := rfl
@[simp] theorem State.setDt_mem (b : Byte) : (s.setDt b).mem = s.mem := rfl
@[simp] theorem State.setDt_params (b : Byte) : (s.setDt b).params = s.params := rfl
@[simp] theorem State.setDt_rngDraws (b : Byte) : (s.setDt b).rngDraws = s.rngDraws := rfl
@[simp] theorem State.setDt_schedule (b : Byte) : (s.setDt b).schedule = s.schedule := rfl
@[simp] theorem State.setDt_frameTaken (b : Byte) : (s.setDt b).frameTaken = s.frameTaken := rfl
@[simp] theorem State.setDt_gateSampled (b : Byte) : (s.setDt b).gateSampled = s.gateSampled := rfl

@[simp] theorem State.setSt_v (b : Byte) : (s.setSt b).v = s.v := rfl
@[simp] theorem State.setSt_i (b : Byte) : (s.setSt b).i = s.i := rfl
@[simp] theorem State.setSt_pc (b : Byte) : (s.setSt b).pc = s.pc := rfl
@[simp] theorem State.setSt_stack (b : Byte) : (s.setSt b).stack = s.stack := rfl
@[simp] theorem State.setSt_sp (b : Byte) : (s.setSt b).sp = s.sp := rfl
@[simp] theorem State.setSt_dt (b : Byte) : (s.setSt b).dt = s.dt := rfl
@[simp] theorem State.setSt_st (b : Byte) : (s.setSt b).st = b := rfl
@[simp] theorem State.setSt_fb (b : Byte) : (s.setSt b).fb = s.fb := rfl
@[simp] theorem State.setSt_mode (b : Byte) : (s.setSt b).mode = s.mode := rfl
@[simp] theorem State.setSt_key (b : Byte) : (s.setSt b).key = s.key := rfl
@[simp] theorem State.setSt_rpl (b : Byte) : (s.setSt b).rpl = s.rpl := rfl
@[simp] theorem State.setSt_draw (b : Byte) : (s.setSt b).draw = s.draw := rfl
@[simp] theorem State.setSt_romCache (b : Byte) : (s.setSt b).romCache = s.romCache := rfl
@[simp] theorem State.setSt_fault (b : Byte) : (s.setSt b).fault = s.fault := rfl
@[simp] theorem State.setSt_mem (b : Byte) : (s.setSt b).mem = s.mem := rfl
@[simp] theorem State.setSt_params (b : Byte) : (s.setSt b).params = s.params := rfl
@[simp] theorem State.setSt_rngDraws (b : Byte) : (s.setSt b).rngDraws = s.rngDraws := rfl
@[simp] theorem State.setSt_schedule (b : Byte) : (s.setSt b).schedule = s.schedule := rfl
@[simp] theorem State.setSt_frameTaken (b : Byte) : (s.setSt b).frameTaken = s.frameTaken := rfl
@[simp] theorem State.setSt_gateSampled (b : Byte) : (s.setSt b).gateSampled = s.gateSampled := rfl

@[simp] theorem State.setFb_v (fb : FrameBuffer) : (s.setFb fb).v = s.v := rfl
@[simp] theorem State.setFb_i (fb : FrameBuffer) : (s.setFb fb).i = s.i := rfl
@[simp] theorem State.setFb_pc (fb : FrameBuffer) : (s.setFb fb).pc = s.pc := rfl
@[simp] theorem State.setFb_stack (fb : FrameBuffer) : (s.setFb fb).stack = s.stack := rfl
@[simp] theorem State.setFb_sp (fb : FrameBuffer) : (s.setFb fb).sp = s.sp := rfl
@[simp] theorem State.setFb_dt (fb : FrameBuffer) : (s.setFb fb).dt = s.dt := rfl
@[simp] theorem State.setFb_st (fb : FrameBuffer) : (s.setFb fb).st = s.st := rfl
@[simp] theorem State.setFb_fb (fb : FrameBuffer) : (s.setFb fb).fb = fb := rfl
@[simp] theorem State.setFb_mode (fb : FrameBuffer) : (s.setFb fb).mode = s.mode := rfl
@[simp] theorem State.setFb_key (fb : FrameBuffer) : (s.setFb fb).key = s.key := rfl
@[simp] theorem State.setFb_rpl (fb : FrameBuffer) : (s.setFb fb).rpl = s.rpl := rfl
@[simp] theorem State.setFb_draw (fb : FrameBuffer) : (s.setFb fb).draw = s.draw := rfl
@[simp] theorem State.setFb_romCache (fb : FrameBuffer) : (s.setFb fb).romCache = s.romCache := rfl
@[simp] theorem State.setFb_fault (fb : FrameBuffer) : (s.setFb fb).fault = s.fault := rfl
@[simp] theorem State.setFb_mem (fb : FrameBuffer) : (s.setFb fb).mem = s.mem := rfl
@[simp] theorem State.setFb_params (fb : FrameBuffer) : (s.setFb fb).params = s.params := rfl
@[simp] theorem State.setFb_rngDraws (fb : FrameBuffer) : (s.setFb fb).rngDraws = s.rngDraws := rfl
@[simp] theorem State.setFb_schedule (fb : FrameBuffer) : (s.setFb fb).schedule = s.schedule := rfl
@[simp] theorem State.setFb_frameTaken (fb : FrameBuffer) : (s.setFb fb).frameTaken = s.frameTaken := rfl
@[simp] theorem State.setFb_gateSampled (fb : FrameBuffer) : (s.setFb fb).gateSampled = s.gateSampled := rfl

@[simp] theorem State.setMode_v (m : Mode) : (s.setMode m).v = s.v := rfl
@[simp] theorem State.setMode_i (m : Mode) : (s.setMode m).i = s.i := rfl
@[simp] theorem State.setMode_pc (m : Mode) : (s.setMode m).pc = s.pc := rfl
@[simp] theorem State.setMode_stack (m : Mode) : (s.setMode m).stack = s.stack := rfl
@[simp] theorem State.setMode_sp (m : Mode) : (s.setMode m).sp = s.sp := rfl
@[simp] theorem State.setMode_dt (m : Mode) : (s.setMode m).dt = s.dt := rfl
@[simp] theorem State.setMode_st (m : Mode) : (s.setMode m).st = s.st := rfl
@[simp] theorem State.setMode_fb (m : Mode) : (s.setMode m).fb = s.fb := rfl
@[simp] theorem State.setMode_mode (m : Mode) : (s.setMode m).mode = m := rfl
@[simp] theorem State.setMode_key (m : Mode) : (s.setMode m).key = s.key := rfl
@[simp] theorem State.setMode_rpl (m : Mode) : (s.setMode m).rpl = s.rpl := rfl
@[simp] theorem State.setMode_draw (m : Mode) : (s.setMode m).draw = s.draw := rfl
@[simp] theorem State.setMode_romCache (m : Mode) : (s.setMode m).romCache = s.romCache := rfl
@[simp] theorem State.setMode_fault (m : Mode) : (s.setMode m).fault = s.fault := rfl
@[simp] theorem State.setMode_mem (m : Mode) : (s.setMode m).mem = s.mem := rfl
@[simp] theorem State.setMode_params (m : Mode) : (s.setMode m).params = s.params := rfl
@[simp] theorem State.setMode_rngDraws (m : Mode) : (s.setMode m).rngDraws = s.rngDraws := rfl
@[simp] theorem State.setMode_schedule (m : Mode) : (s.setMode m).schedule = s.schedule := rfl
@[simp] theorem State.setMode_frameTaken (m : Mode) : (s.setMode m).frameTaken = s.frameTaken := rfl
@[simp] theorem State.setMode_gateSampled (m : Mode) : (s.setMode m).gateSampled = s.gateSampled := rfl

@[simp] theorem State.setKey_v (k : Vector Bool 16) : (s.setKey k).v = s.v := rfl
@[simp] theorem State.setKey_i (k : Vector Bool 16) : (s.setKey k).i = s.i := rfl
@[simp] theorem State.setKey_pc (k : Vector Bool 16) : (s.setKey k).pc = s.pc := rfl
@[simp] theorem State.setKey_stack (k : Vector Bool 16) : (s.setKey k).stack = s.stack := rfl
@[simp] theorem State.setKey_sp (k : Vector Bool 16) : (s.setKey k).sp = s.sp := rfl
@[simp] theorem State.setKey_dt (k : Vector Bool 16) : (s.setKey k).dt = s.dt := rfl
@[simp] theorem State.setKey_st (k : Vector Bool 16) : (s.setKey k).st = s.st := rfl
@[simp] theorem State.setKey_fb (k : Vector Bool 16) : (s.setKey k).fb = s.fb := rfl
@[simp] theorem State.setKey_mode (k : Vector Bool 16) : (s.setKey k).mode = s.mode := rfl
@[simp] theorem State.setKey_key (k : Vector Bool 16) : (s.setKey k).key = k := rfl
@[simp] theorem State.setKey_rpl (k : Vector Bool 16) : (s.setKey k).rpl = s.rpl := rfl
@[simp] theorem State.setKey_draw (k : Vector Bool 16) : (s.setKey k).draw = s.draw := rfl
@[simp] theorem State.setKey_romCache (k : Vector Bool 16) : (s.setKey k).romCache = s.romCache := rfl
@[simp] theorem State.setKey_fault (k : Vector Bool 16) : (s.setKey k).fault = s.fault := rfl
@[simp] theorem State.setKey_mem (k : Vector Bool 16) : (s.setKey k).mem = s.mem := rfl
@[simp] theorem State.setKey_params (k : Vector Bool 16) : (s.setKey k).params = s.params := rfl
@[simp] theorem State.setKey_rngDraws (k : Vector Bool 16) : (s.setKey k).rngDraws = s.rngDraws := rfl
@[simp] theorem State.setKey_schedule (k : Vector Bool 16) : (s.setKey k).schedule = s.schedule := rfl
@[simp] theorem State.setKey_frameTaken (k : Vector Bool 16) : (s.setKey k).frameTaken = s.frameTaken := rfl
@[simp] theorem State.setKey_gateSampled (k : Vector Bool 16) : (s.setKey k).gateSampled = s.gateSampled := rfl

@[simp] theorem State.setRpl_v (k : Fin 8) (b : Byte) : (s.setRpl k b).v = s.v := rfl
@[simp] theorem State.setRpl_i (k : Fin 8) (b : Byte) : (s.setRpl k b).i = s.i := rfl
@[simp] theorem State.setRpl_pc (k : Fin 8) (b : Byte) : (s.setRpl k b).pc = s.pc := rfl
@[simp] theorem State.setRpl_stack (k : Fin 8) (b : Byte) : (s.setRpl k b).stack = s.stack := rfl
@[simp] theorem State.setRpl_sp (k : Fin 8) (b : Byte) : (s.setRpl k b).sp = s.sp := rfl
@[simp] theorem State.setRpl_dt (k : Fin 8) (b : Byte) : (s.setRpl k b).dt = s.dt := rfl
@[simp] theorem State.setRpl_st (k : Fin 8) (b : Byte) : (s.setRpl k b).st = s.st := rfl
@[simp] theorem State.setRpl_fb (k : Fin 8) (b : Byte) : (s.setRpl k b).fb = s.fb := rfl
@[simp] theorem State.setRpl_mode (k : Fin 8) (b : Byte) : (s.setRpl k b).mode = s.mode := rfl
@[simp] theorem State.setRpl_key (k : Fin 8) (b : Byte) : (s.setRpl k b).key = s.key := rfl
@[simp] theorem State.setRpl_rpl (k : Fin 8) (b : Byte) : (s.setRpl k b).rpl = s.rpl.set k.val b := rfl
@[simp] theorem State.setRpl_draw (k : Fin 8) (b : Byte) : (s.setRpl k b).draw = s.draw := rfl
@[simp] theorem State.setRpl_romCache (k : Fin 8) (b : Byte) : (s.setRpl k b).romCache = s.romCache := rfl
@[simp] theorem State.setRpl_fault (k : Fin 8) (b : Byte) : (s.setRpl k b).fault = s.fault := rfl
@[simp] theorem State.setRpl_mem (k : Fin 8) (b : Byte) : (s.setRpl k b).mem = s.mem := rfl
@[simp] theorem State.setRpl_params (k : Fin 8) (b : Byte) : (s.setRpl k b).params = s.params := rfl
@[simp] theorem State.setRpl_rngDraws (k : Fin 8) (b : Byte) : (s.setRpl k b).rngDraws = s.rngDraws := rfl
@[simp] theorem State.setRpl_schedule (k : Fin 8) (b : Byte) : (s.setRpl k b).schedule = s.schedule := rfl
@[simp] theorem State.setRpl_frameTaken (k : Fin 8) (b : Byte) : (s.setRpl k b).frameTaken = s.frameTaken := rfl
@[simp] theorem State.setRpl_gateSampled (k : Fin 8) (b : Byte) : (s.setRpl k b).gateSampled = s.gateSampled := rfl

@[simp] theorem State.setDraw_v (b : Bool) : (s.setDraw b).v = s.v := rfl
@[simp] theorem State.setDraw_i (b : Bool) : (s.setDraw b).i = s.i := rfl
@[simp] theorem State.setDraw_pc (b : Bool) : (s.setDraw b).pc = s.pc := rfl
@[simp] theorem State.setDraw_stack (b : Bool) : (s.setDraw b).stack = s.stack := rfl
@[simp] theorem State.setDraw_sp (b : Bool) : (s.setDraw b).sp = s.sp := rfl
@[simp] theorem State.setDraw_dt (b : Bool) : (s.setDraw b).dt = s.dt := rfl
@[simp] theorem State.setDraw_st (b : Bool) : (s.setDraw b).st = s.st := rfl
@[simp] theorem State.setDraw_fb (b : Bool) : (s.setDraw b).fb = s.fb := rfl
@[simp] theorem State.setDraw_mode (b : Bool) : (s.setDraw b).mode = s.mode := rfl
@[simp] theorem State.setDraw_key (b : Bool) : (s.setDraw b).key = s.key := rfl
@[simp] theorem State.setDraw_rpl (b : Bool) : (s.setDraw b).rpl = s.rpl := rfl
@[simp] theorem State.setDraw_draw (b : Bool) : (s.setDraw b).draw = b := rfl
@[simp] theorem State.setDraw_romCache (b : Bool) : (s.setDraw b).romCache = s.romCache := rfl
@[simp] theorem State.setDraw_fault (b : Bool) : (s.setDraw b).fault = s.fault := rfl
@[simp] theorem State.setDraw_mem (b : Bool) : (s.setDraw b).mem = s.mem := rfl
@[simp] theorem State.setDraw_params (b : Bool) : (s.setDraw b).params = s.params := rfl
@[simp] theorem State.setDraw_rngDraws (b : Bool) : (s.setDraw b).rngDraws = s.rngDraws := rfl
@[simp] theorem State.setDraw_schedule (b : Bool) : (s.setDraw b).schedule = s.schedule := rfl
@[simp] theorem State.setDraw_frameTaken (b : Bool) : (s.setDraw b).frameTaken = s.frameTaken := rfl
@[simp] theorem State.setDraw_gateSampled (b : Bool) : (s.setDraw b).gateSampled = s.gateSampled := rfl

@[simp] theorem State.setFault_v (r : FaultRecord) : (s.setFault r).v = s.v := rfl
@[simp] theorem State.setFault_i (r : FaultRecord) : (s.setFault r).i = s.i := rfl
@[simp] theorem State.setFault_pc (r : FaultRecord) : (s.setFault r).pc = s.pc := rfl
@[simp] theorem State.setFault_stack (r : FaultRecord) : (s.setFault r).stack = s.stack := rfl
@[simp] theorem State.setFault_sp (r : FaultRecord) : (s.setFault r).sp = s.sp := rfl
@[simp] theorem State.setFault_dt (r : FaultRecord) : (s.setFault r).dt = s.dt := rfl
@[simp] theorem State.setFault_st (r : FaultRecord) : (s.setFault r).st = s.st := rfl
@[simp] theorem State.setFault_fb (r : FaultRecord) : (s.setFault r).fb = s.fb := rfl
@[simp] theorem State.setFault_mode (r : FaultRecord) : (s.setFault r).mode = s.mode := rfl
@[simp] theorem State.setFault_key (r : FaultRecord) : (s.setFault r).key = s.key := rfl
@[simp] theorem State.setFault_rpl (r : FaultRecord) : (s.setFault r).rpl = s.rpl := rfl
@[simp] theorem State.setFault_draw (r : FaultRecord) : (s.setFault r).draw = s.draw := rfl
@[simp] theorem State.setFault_romCache (r : FaultRecord) : (s.setFault r).romCache = s.romCache := rfl
@[simp] theorem State.setFault_fault (r : FaultRecord) : (s.setFault r).fault = some r := rfl
@[simp] theorem State.setFault_mem (r : FaultRecord) : (s.setFault r).mem = s.mem := rfl
@[simp] theorem State.setFault_params (r : FaultRecord) : (s.setFault r).params = s.params := rfl
@[simp] theorem State.setFault_rngDraws (r : FaultRecord) : (s.setFault r).rngDraws = s.rngDraws := rfl
@[simp] theorem State.setFault_schedule (r : FaultRecord) : (s.setFault r).schedule = s.schedule := rfl
@[simp] theorem State.setFault_frameTaken (r : FaultRecord) : (s.setFault r).frameTaken = s.frameTaken := rfl
@[simp] theorem State.setFault_gateSampled (r : FaultRecord) : (s.setFault r).gateSampled = s.gateSampled := rfl

@[simp] theorem State.setByte_v (a : Nat) (b : Byte) : (s.setByte a b).v = s.v := rfl
@[simp] theorem State.setByte_i (a : Nat) (b : Byte) : (s.setByte a b).i = s.i := rfl
@[simp] theorem State.setByte_pc (a : Nat) (b : Byte) : (s.setByte a b).pc = s.pc := rfl
@[simp] theorem State.setByte_stack (a : Nat) (b : Byte) : (s.setByte a b).stack = s.stack := rfl
@[simp] theorem State.setByte_sp (a : Nat) (b : Byte) : (s.setByte a b).sp = s.sp := rfl
@[simp] theorem State.setByte_dt (a : Nat) (b : Byte) : (s.setByte a b).dt = s.dt := rfl
@[simp] theorem State.setByte_st (a : Nat) (b : Byte) : (s.setByte a b).st = s.st := rfl
@[simp] theorem State.setByte_fb (a : Nat) (b : Byte) : (s.setByte a b).fb = s.fb := rfl
@[simp] theorem State.setByte_mode (a : Nat) (b : Byte) : (s.setByte a b).mode = s.mode := rfl
@[simp] theorem State.setByte_key (a : Nat) (b : Byte) : (s.setByte a b).key = s.key := rfl
@[simp] theorem State.setByte_rpl (a : Nat) (b : Byte) : (s.setByte a b).rpl = s.rpl := rfl
@[simp] theorem State.setByte_draw (a : Nat) (b : Byte) : (s.setByte a b).draw = s.draw := rfl
@[simp] theorem State.setByte_romCache (a : Nat) (b : Byte) : (s.setByte a b).romCache = s.romCache := rfl
@[simp] theorem State.setByte_fault (a : Nat) (b : Byte) : (s.setByte a b).fault = s.fault := rfl
@[simp] theorem State.setByte_mem (a : Nat) (b : Byte) : (s.setByte a b).mem = s.mem.write s.params a b := rfl
@[simp] theorem State.setByte_params (a : Nat) (b : Byte) : (s.setByte a b).params = s.params := rfl
@[simp] theorem State.setByte_rngDraws (a : Nat) (b : Byte) : (s.setByte a b).rngDraws = s.rngDraws := rfl
@[simp] theorem State.setByte_schedule (a : Nat) (b : Byte) : (s.setByte a b).schedule = s.schedule := rfl
@[simp] theorem State.setByte_frameTaken (a : Nat) (b : Byte) : (s.setByte a b).frameTaken = s.frameTaken := rfl
@[simp] theorem State.setByte_gateSampled (a : Nat) (b : Byte) : (s.setByte a b).gateSampled = s.gateSampled := rfl

@[simp] theorem State.countDraw_v : s.countDraw.v = s.v := rfl
@[simp] theorem State.countDraw_i : s.countDraw.i = s.i := rfl
@[simp] theorem State.countDraw_pc : s.countDraw.pc = s.pc := rfl
@[simp] theorem State.countDraw_stack : s.countDraw.stack = s.stack := rfl
@[simp] theorem State.countDraw_sp : s.countDraw.sp = s.sp := rfl
@[simp] theorem State.countDraw_dt : s.countDraw.dt = s.dt := rfl
@[simp] theorem State.countDraw_st : s.countDraw.st = s.st := rfl
@[simp] theorem State.countDraw_fb : s.countDraw.fb = s.fb := rfl
@[simp] theorem State.countDraw_mode : s.countDraw.mode = s.mode := rfl
@[simp] theorem State.countDraw_key : s.countDraw.key = s.key := rfl
@[simp] theorem State.countDraw_rpl : s.countDraw.rpl = s.rpl := rfl
@[simp] theorem State.countDraw_draw : s.countDraw.draw = s.draw := rfl
@[simp] theorem State.countDraw_romCache : s.countDraw.romCache = s.romCache := rfl
@[simp] theorem State.countDraw_fault : s.countDraw.fault = s.fault := rfl
@[simp] theorem State.countDraw_mem : s.countDraw.mem = s.mem := rfl
@[simp] theorem State.countDraw_params : s.countDraw.params = s.params := rfl
@[simp] theorem State.countDraw_rngDraws : s.countDraw.rngDraws = s.rngDraws + 1 := rfl
@[simp] theorem State.countDraw_schedule : s.countDraw.schedule = s.schedule := rfl
@[simp] theorem State.countDraw_frameTaken : s.countDraw.frameTaken = s.frameTaken := rfl
@[simp] theorem State.countDraw_gateSampled : s.countDraw.gateSampled = s.gateSampled := rfl

@[simp] theorem State.setSchedule_v (es : Schedule) : (s.setSchedule es).v = s.v := rfl
@[simp] theorem State.setSchedule_i (es : Schedule) : (s.setSchedule es).i = s.i := rfl
@[simp] theorem State.setSchedule_pc (es : Schedule) : (s.setSchedule es).pc = s.pc := rfl
@[simp] theorem State.setSchedule_stack (es : Schedule) : (s.setSchedule es).stack = s.stack := rfl
@[simp] theorem State.setSchedule_sp (es : Schedule) : (s.setSchedule es).sp = s.sp := rfl
@[simp] theorem State.setSchedule_dt (es : Schedule) : (s.setSchedule es).dt = s.dt := rfl
@[simp] theorem State.setSchedule_st (es : Schedule) : (s.setSchedule es).st = s.st := rfl
@[simp] theorem State.setSchedule_fb (es : Schedule) : (s.setSchedule es).fb = s.fb := rfl
@[simp] theorem State.setSchedule_mode (es : Schedule) : (s.setSchedule es).mode = s.mode := rfl
@[simp] theorem State.setSchedule_key (es : Schedule) : (s.setSchedule es).key = s.key := rfl
@[simp] theorem State.setSchedule_rpl (es : Schedule) : (s.setSchedule es).rpl = s.rpl := rfl
@[simp] theorem State.setSchedule_draw (es : Schedule) : (s.setSchedule es).draw = s.draw := rfl
@[simp] theorem State.setSchedule_romCache (es : Schedule) : (s.setSchedule es).romCache = s.romCache := rfl
@[simp] theorem State.setSchedule_fault (es : Schedule) : (s.setSchedule es).fault = s.fault := rfl
@[simp] theorem State.setSchedule_mem (es : Schedule) : (s.setSchedule es).mem = s.mem := rfl
@[simp] theorem State.setSchedule_params (es : Schedule) : (s.setSchedule es).params = s.params := rfl
@[simp] theorem State.setSchedule_rngDraws (es : Schedule) : (s.setSchedule es).rngDraws = s.rngDraws := rfl
@[simp] theorem State.setSchedule_schedule (es : Schedule) : (s.setSchedule es).schedule = es := rfl
@[simp] theorem State.setSchedule_frameTaken (es : Schedule) : (s.setSchedule es).frameTaken = s.frameTaken := rfl
@[simp] theorem State.setSchedule_gateSampled (es : Schedule) : (s.setSchedule es).gateSampled = s.gateSampled := rfl

@[simp] theorem State.setFrame_v (f : Frame) : (s.setFrame f).v = s.v := rfl
@[simp] theorem State.setFrame_i (f : Frame) : (s.setFrame f).i = s.i := rfl
@[simp] theorem State.setFrame_pc (f : Frame) : (s.setFrame f).pc = s.pc := rfl
@[simp] theorem State.setFrame_stack (f : Frame) : (s.setFrame f).stack = s.stack := rfl
@[simp] theorem State.setFrame_sp (f : Frame) : (s.setFrame f).sp = s.sp := rfl
@[simp] theorem State.setFrame_dt (f : Frame) : (s.setFrame f).dt = s.dt := rfl
@[simp] theorem State.setFrame_st (f : Frame) : (s.setFrame f).st = s.st := rfl
@[simp] theorem State.setFrame_fb (f : Frame) : (s.setFrame f).fb = s.fb := rfl
@[simp] theorem State.setFrame_mode (f : Frame) : (s.setFrame f).mode = s.mode := rfl
@[simp] theorem State.setFrame_key (f : Frame) : (s.setFrame f).key = s.key := rfl
@[simp] theorem State.setFrame_rpl (f : Frame) : (s.setFrame f).rpl = s.rpl := rfl
@[simp] theorem State.setFrame_draw (f : Frame) : (s.setFrame f).draw = s.draw := rfl
@[simp] theorem State.setFrame_romCache (f : Frame) : (s.setFrame f).romCache = s.romCache := rfl
@[simp] theorem State.setFrame_fault (f : Frame) : (s.setFrame f).fault = s.fault := rfl
@[simp] theorem State.setFrame_mem (f : Frame) : (s.setFrame f).mem = s.mem := rfl
@[simp] theorem State.setFrame_params (f : Frame) : (s.setFrame f).params = s.params := rfl
@[simp] theorem State.setFrame_rngDraws (f : Frame) : (s.setFrame f).rngDraws = s.rngDraws := rfl
@[simp] theorem State.setFrame_schedule (f : Frame) : (s.setFrame f).schedule = s.schedule := rfl
@[simp] theorem State.setFrame_frameTaken (f : Frame) : (s.setFrame f).frameTaken = some f := rfl
@[simp] theorem State.setFrame_gateSampled (f : Frame) : (s.setFrame f).gateSampled = s.gateSampled := rfl

@[simp] theorem State.setGate_v (b : Bool) : (s.setGate b).v = s.v := rfl
@[simp] theorem State.setGate_i (b : Bool) : (s.setGate b).i = s.i := rfl
@[simp] theorem State.setGate_pc (b : Bool) : (s.setGate b).pc = s.pc := rfl
@[simp] theorem State.setGate_stack (b : Bool) : (s.setGate b).stack = s.stack := rfl
@[simp] theorem State.setGate_sp (b : Bool) : (s.setGate b).sp = s.sp := rfl
@[simp] theorem State.setGate_dt (b : Bool) : (s.setGate b).dt = s.dt := rfl
@[simp] theorem State.setGate_st (b : Bool) : (s.setGate b).st = s.st := rfl
@[simp] theorem State.setGate_fb (b : Bool) : (s.setGate b).fb = s.fb := rfl
@[simp] theorem State.setGate_mode (b : Bool) : (s.setGate b).mode = s.mode := rfl
@[simp] theorem State.setGate_key (b : Bool) : (s.setGate b).key = s.key := rfl
@[simp] theorem State.setGate_rpl (b : Bool) : (s.setGate b).rpl = s.rpl := rfl
@[simp] theorem State.setGate_draw (b : Bool) : (s.setGate b).draw = s.draw := rfl
@[simp] theorem State.setGate_romCache (b : Bool) : (s.setGate b).romCache = s.romCache := rfl
@[simp] theorem State.setGate_fault (b : Bool) : (s.setGate b).fault = s.fault := rfl
@[simp] theorem State.setGate_mem (b : Bool) : (s.setGate b).mem = s.mem := rfl
@[simp] theorem State.setGate_params (b : Bool) : (s.setGate b).params = s.params := rfl
@[simp] theorem State.setGate_rngDraws (b : Bool) : (s.setGate b).rngDraws = s.rngDraws := rfl
@[simp] theorem State.setGate_schedule (b : Bool) : (s.setGate b).schedule = s.schedule := rfl
@[simp] theorem State.setGate_frameTaken (b : Bool) : (s.setGate b).frameTaken = s.frameTaken := rfl
@[simp] theorem State.setGate_gateSampled (b : Bool) : (s.setGate b).gateSampled = some b := rfl

@[simp] theorem State.advance_v (k : Word) : (s.advance k).v = s.v := rfl
@[simp] theorem State.advance_i (k : Word) : (s.advance k).i = s.i := rfl
@[simp] theorem State.advance_pc (k : Word) : (s.advance k).pc = mask12 (s.pc + k) := rfl
@[simp] theorem State.advance_stack (k : Word) : (s.advance k).stack = s.stack := rfl
@[simp] theorem State.advance_sp (k : Word) : (s.advance k).sp = s.sp := rfl
@[simp] theorem State.advance_dt (k : Word) : (s.advance k).dt = s.dt := rfl
@[simp] theorem State.advance_st (k : Word) : (s.advance k).st = s.st := rfl
@[simp] theorem State.advance_fb (k : Word) : (s.advance k).fb = s.fb := rfl
@[simp] theorem State.advance_mode (k : Word) : (s.advance k).mode = s.mode := rfl
@[simp] theorem State.advance_key (k : Word) : (s.advance k).key = s.key := rfl
@[simp] theorem State.advance_rpl (k : Word) : (s.advance k).rpl = s.rpl := rfl
@[simp] theorem State.advance_draw (k : Word) : (s.advance k).draw = s.draw := rfl
@[simp] theorem State.advance_romCache (k : Word) : (s.advance k).romCache = s.romCache := rfl
@[simp] theorem State.advance_fault (k : Word) : (s.advance k).fault = s.fault := rfl
@[simp] theorem State.advance_mem (k : Word) : (s.advance k).mem = s.mem := rfl
@[simp] theorem State.advance_params (k : Word) : (s.advance k).params = s.params := rfl
@[simp] theorem State.advance_rngDraws (k : Word) : (s.advance k).rngDraws = s.rngDraws := rfl
@[simp] theorem State.advance_schedule (k : Word) : (s.advance k).schedule = s.schedule := rfl
@[simp] theorem State.advance_frameTaken (k : Word) : (s.advance k).frameTaken = s.frameTaken := rfl
@[simp] theorem State.advance_gateSampled (k : Word) : (s.advance k).gateSampled = s.gateSampled := rfl

@[simp] theorem State.push_v (a : Word) : (s.push a).v = s.v := rfl
@[simp] theorem State.push_i (a : Word) : (s.push a).i = s.i := rfl
@[simp] theorem State.push_pc (a : Word) : (s.push a).pc = s.pc := rfl
@[simp] theorem State.push_stack (a : Word) : (s.push a).stack = s.stack.set s.sp.val a := rfl
@[simp] theorem State.push_sp (a : Word) : (s.push a).sp = s.sp + 1 := rfl
@[simp] theorem State.push_dt (a : Word) : (s.push a).dt = s.dt := rfl
@[simp] theorem State.push_st (a : Word) : (s.push a).st = s.st := rfl
@[simp] theorem State.push_fb (a : Word) : (s.push a).fb = s.fb := rfl
@[simp] theorem State.push_mode (a : Word) : (s.push a).mode = s.mode := rfl
@[simp] theorem State.push_key (a : Word) : (s.push a).key = s.key := rfl
@[simp] theorem State.push_rpl (a : Word) : (s.push a).rpl = s.rpl := rfl
@[simp] theorem State.push_draw (a : Word) : (s.push a).draw = s.draw := rfl
@[simp] theorem State.push_romCache (a : Word) : (s.push a).romCache = s.romCache := rfl
@[simp] theorem State.push_fault (a : Word) : (s.push a).fault = s.fault := rfl
@[simp] theorem State.push_mem (a : Word) : (s.push a).mem = s.mem := rfl
@[simp] theorem State.push_params (a : Word) : (s.push a).params = s.params := rfl
@[simp] theorem State.push_rngDraws (a : Word) : (s.push a).rngDraws = s.rngDraws := rfl
@[simp] theorem State.push_schedule (a : Word) : (s.push a).schedule = s.schedule := rfl
@[simp] theorem State.push_frameTaken (a : Word) : (s.push a).frameTaken = s.frameTaken := rfl
@[simp] theorem State.push_gateSampled (a : Word) : (s.push a).gateSampled = s.gateSampled := rfl

@[simp] theorem State.popped_v : s.popped.v = s.v := rfl
@[simp] theorem State.popped_i : s.popped.i = s.i := rfl
@[simp] theorem State.popped_pc : s.popped.pc = s.pc := rfl
@[simp] theorem State.popped_stack : s.popped.stack = s.stack := rfl
@[simp] theorem State.popped_sp : s.popped.sp = s.sp - 1 := rfl
@[simp] theorem State.popped_dt : s.popped.dt = s.dt := rfl
@[simp] theorem State.popped_st : s.popped.st = s.st := rfl
@[simp] theorem State.popped_fb : s.popped.fb = s.fb := rfl
@[simp] theorem State.popped_mode : s.popped.mode = s.mode := rfl
@[simp] theorem State.popped_key : s.popped.key = s.key := rfl
@[simp] theorem State.popped_rpl : s.popped.rpl = s.rpl := rfl
@[simp] theorem State.popped_draw : s.popped.draw = s.draw := rfl
@[simp] theorem State.popped_romCache : s.popped.romCache = s.romCache := rfl
@[simp] theorem State.popped_fault : s.popped.fault = s.fault := rfl
@[simp] theorem State.popped_mem : s.popped.mem = s.mem := rfl
@[simp] theorem State.popped_params : s.popped.params = s.params := rfl
@[simp] theorem State.popped_rngDraws : s.popped.rngDraws = s.rngDraws := rfl
@[simp] theorem State.popped_schedule : s.popped.schedule = s.schedule := rfl
@[simp] theorem State.popped_frameTaken : s.popped.frameTaken = s.frameTaken := rfl
@[simp] theorem State.popped_gateSampled : s.popped.gateSampled = s.gateSampled := rfl

@[simp] theorem State.setFlag_v (b : Bool) : (s.setFlag b).v = s.v.set vf.val (flagByte b) := rfl
@[simp] theorem State.setFlag_i (b : Bool) : (s.setFlag b).i = s.i := rfl
@[simp] theorem State.setFlag_pc (b : Bool) : (s.setFlag b).pc = s.pc := rfl
@[simp] theorem State.setFlag_stack (b : Bool) : (s.setFlag b).stack = s.stack := rfl
@[simp] theorem State.setFlag_sp (b : Bool) : (s.setFlag b).sp = s.sp := rfl
@[simp] theorem State.setFlag_dt (b : Bool) : (s.setFlag b).dt = s.dt := rfl
@[simp] theorem State.setFlag_st (b : Bool) : (s.setFlag b).st = s.st := rfl
@[simp] theorem State.setFlag_fb (b : Bool) : (s.setFlag b).fb = s.fb := rfl
@[simp] theorem State.setFlag_mode (b : Bool) : (s.setFlag b).mode = s.mode := rfl
@[simp] theorem State.setFlag_key (b : Bool) : (s.setFlag b).key = s.key := rfl
@[simp] theorem State.setFlag_rpl (b : Bool) : (s.setFlag b).rpl = s.rpl := rfl
@[simp] theorem State.setFlag_draw (b : Bool) : (s.setFlag b).draw = s.draw := rfl
@[simp] theorem State.setFlag_romCache (b : Bool) : (s.setFlag b).romCache = s.romCache := rfl
@[simp] theorem State.setFlag_fault (b : Bool) : (s.setFlag b).fault = s.fault := rfl
@[simp] theorem State.setFlag_mem (b : Bool) : (s.setFlag b).mem = s.mem := rfl
@[simp] theorem State.setFlag_params (b : Bool) : (s.setFlag b).params = s.params := rfl
@[simp] theorem State.setFlag_rngDraws (b : Bool) : (s.setFlag b).rngDraws = s.rngDraws := rfl
@[simp] theorem State.setFlag_schedule (b : Bool) : (s.setFlag b).schedule = s.schedule := rfl
@[simp] theorem State.setFlag_frameTaken (b : Bool) : (s.setFlag b).frameTaken = s.frameTaken := rfl
@[simp] theorem State.setFlag_gateSampled (b : Bool) : (s.setFlag b).gateSampled = s.gateSampled := rfl

@[simp] theorem State.setRegFlag_v (x : Reg) (r : Byte) (b : Bool) : (s.setRegFlag x r b).v = (s.v.set x.val r).set vf.val (flagByte b) := rfl
@[simp] theorem State.setRegFlag_i (x : Reg) (r : Byte) (b : Bool) : (s.setRegFlag x r b).i = s.i := rfl
@[simp] theorem State.setRegFlag_pc (x : Reg) (r : Byte) (b : Bool) : (s.setRegFlag x r b).pc = s.pc := rfl
@[simp] theorem State.setRegFlag_stack (x : Reg) (r : Byte) (b : Bool) : (s.setRegFlag x r b).stack = s.stack := rfl
@[simp] theorem State.setRegFlag_sp (x : Reg) (r : Byte) (b : Bool) : (s.setRegFlag x r b).sp = s.sp := rfl
@[simp] theorem State.setRegFlag_dt (x : Reg) (r : Byte) (b : Bool) : (s.setRegFlag x r b).dt = s.dt := rfl
@[simp] theorem State.setRegFlag_st (x : Reg) (r : Byte) (b : Bool) : (s.setRegFlag x r b).st = s.st := rfl
@[simp] theorem State.setRegFlag_fb (x : Reg) (r : Byte) (b : Bool) : (s.setRegFlag x r b).fb = s.fb := rfl
@[simp] theorem State.setRegFlag_mode (x : Reg) (r : Byte) (b : Bool) : (s.setRegFlag x r b).mode = s.mode := rfl
@[simp] theorem State.setRegFlag_key (x : Reg) (r : Byte) (b : Bool) : (s.setRegFlag x r b).key = s.key := rfl
@[simp] theorem State.setRegFlag_rpl (x : Reg) (r : Byte) (b : Bool) : (s.setRegFlag x r b).rpl = s.rpl := rfl
@[simp] theorem State.setRegFlag_draw (x : Reg) (r : Byte) (b : Bool) : (s.setRegFlag x r b).draw = s.draw := rfl
@[simp] theorem State.setRegFlag_romCache (x : Reg) (r : Byte) (b : Bool) : (s.setRegFlag x r b).romCache = s.romCache := rfl
@[simp] theorem State.setRegFlag_fault (x : Reg) (r : Byte) (b : Bool) : (s.setRegFlag x r b).fault = s.fault := rfl
@[simp] theorem State.setRegFlag_mem (x : Reg) (r : Byte) (b : Bool) : (s.setRegFlag x r b).mem = s.mem := rfl
@[simp] theorem State.setRegFlag_params (x : Reg) (r : Byte) (b : Bool) : (s.setRegFlag x r b).params = s.params := rfl
@[simp] theorem State.setRegFlag_rngDraws (x : Reg) (r : Byte) (b : Bool) : (s.setRegFlag x r b).rngDraws = s.rngDraws := rfl
@[simp] theorem State.setRegFlag_schedule (x : Reg) (r : Byte) (b : Bool) : (s.setRegFlag x r b).schedule = s.schedule := rfl
@[simp] theorem State.setRegFlag_frameTaken (x : Reg) (r : Byte) (b : Bool) : (s.setRegFlag x r b).frameTaken = s.frameTaken := rfl
@[simp] theorem State.setRegFlag_gateSampled (x : Reg) (r : Byte) (b : Bool) : (s.setRegFlag x r b).gateSampled = s.gateSampled := rfl

@[simp] theorem State.restart_v : s.restart.v = Vector.replicate 16 0 := rfl
@[simp] theorem State.restart_i : s.restart.i = 0 := rfl
@[simp] theorem State.restart_pc : s.restart.pc = 0x200 := rfl
@[simp] theorem State.restart_stack : s.restart.stack = Vector.replicate 16 0 := rfl
@[simp] theorem State.restart_sp : s.restart.sp = 0 := rfl
@[simp] theorem State.restart_dt : s.restart.dt = 0 := rfl
@[simp] theorem State.restart_st : s.restart.st = 0 := rfl
@[simp] theorem State.restart_fb : s.restart.fb = [] := rfl
@[simp] theorem State.restart_mode : s.restart.mode = .standard := rfl
@[simp] theorem State.restart_key : s.restart.key = Vector.replicate 16 false := rfl
@[simp] theorem State.restart_rpl : s.restart.rpl = Vector.replicate 8 0 := rfl
@[simp] theorem State.restart_draw : s.restart.draw = false := rfl
@[simp] theorem State.restart_romCache : s.restart.romCache = s.romCache := rfl
@[simp] theorem State.restart_fault : s.restart.fault = none := rfl
@[simp] theorem State.restart_mem : s.restart.mem = romCells s.params s.romCache := rfl
@[simp] theorem State.restart_params : s.restart.params = s.params := rfl
@[simp] theorem State.restart_rngDraws : s.restart.rngDraws = s.rngDraws := rfl
@[simp] theorem State.restart_schedule : s.restart.schedule = s.schedule := rfl
@[simp] theorem State.restart_frameTaken : s.restart.frameTaken = s.frameTaken := rfl
@[simp] theorem State.restart_gateSampled : s.restart.gateSampled = s.gateSampled := rfl

end Sys2Proof.Machine
end

