-- ==== Sys2Proof/Laws/Ops.lean ====
section
/-! SUPPORT. One lemma for each shared operation: what a read gives after each write, and everything an operation can
answer. Proofs about instructions cite these and do not unfold the operations. -/

namespace Sys2Proof.Machine

/-! ## Registers, RAM bytes, stack entries, RPL flags -/

theorem State.reg_setReg (s : State) (x y : Reg) (b : Byte) :
    (s.setReg x b).reg y = if y = x then b else s.reg y := by
  by_cases h : y = x
  · subst h; simp [State.reg]
  · have : x.val ≠ y.val := fun h' => h (Fin.ext h'.symm)
    simp [State.reg, this, h]

@[simp] theorem State.reg_setReg_same (s : State) (x : Reg) (b : Byte) : (s.setReg x b).reg x = b := by
  simp [State.reg_setReg]

theorem State.byte_setByte (s : State) (a c : Nat) (b : Byte) :
    (s.setByte a b).byte c = if c = a then b else s.byte c := Memory.read_write _ _ _ _ _

@[simp] theorem State.byte_setReg (s : State) (x : Reg) (b : Byte) (a : Nat) : (s.setReg x b).byte a = s.byte a := rfl

@[simp] theorem State.reg_setByte (s : State) (a : Nat) (b : Byte) (x : Reg) : (s.setByte a b).reg x = s.reg x := rfl

/-- The flag is written last: `VF` holds it, the destination its result unless it is `VF` (R181). -/
theorem State.reg_setRegFlag (s : State) (x y : Reg) (r : Byte) (b : Bool) :
    (s.setRegFlag x r b).reg y = if y = vf then flagByte b else if y = x then r else s.reg y := by
  simp only [State.setRegFlag, State.setFlag, State.reg_setReg]

theorem State.reg_setFlag (s : State) (y : Reg) (b : Bool) :
    (s.setFlag b).reg y = if y = vf then flagByte b else s.reg y := State.reg_setReg _ _ _ _

theorem State.rpl_setRpl (s : State) (k j : Fin 8) (b : Byte) :
    (s.setRpl k b).rpl[j.val] = if j = k then b else s.rpl[j.val] := by
  by_cases h : j = k
  · subst h; simp
  · have : k.val ≠ j.val := fun h' => h (Fin.ext h'.symm)
    simp [this, h]

theorem State.stack_push (s : State) (a : Word) (k : Fin 16) :
    (s.push a).stack[k.val] = if k = s.sp then a else s.stack[k.val] := by
  by_cases h : k = s.sp
  · subst h; simp
  · have : s.sp.val ≠ k.val := fun h' => h (Fin.ext h'.symm)
    simp [this, h]

/-- A pop returns what the last push stored, whatever `SP` was: the pointer wraps both ways (R27, R28, R29). -/
theorem State.popValue_push (s : State) (a : Word) : (s.push a).popValue = a := by
  simp [State.popValue]

theorem State.popped_push_sp (s : State) (a : Word) : (s.push a).popped.sp = s.sp := by
  simp

/-! ## The 12-bit mask -/

theorem mask12_toNat (a : Word) : (mask12 a).toNat = a.toNat % 0x1000 := by
  have : (0xFFF : Word).toNat = 2 ^ 12 - 1 := rfl
  rw [mask12, BitVec.toNat_and, this, Nat.and_two_pow_sub_one_eq_mod]

theorem mask12_le (a : Word) : (mask12 a).toNat ≤ 0xFFF := by
  rw [mask12_toNat]; omega

theorem State.advance_pc_le (s : State) (k : Word) : (s.advance k).pc.toNat ≤ 0xFFF := mask12_le _

/-- `advance(k)` is `(pc + k) mod 0x1000` (R24). -/
theorem State.advance_pc_toNat (s : State) (k : Word) :
    (s.advance k).pc.toNat = (s.pc.toNat + k.toNat) % 0x1000 := by
  rw [State.advance_pc, mask12_toNat, BitVec.toNat_add]; omega

theorem address_toNat (nnn : BitVec 12) : (address nnn).toNat = nnn.toNat := by
  simp [address, BitVec.toNat_setWidth]; omega

theorem wide_toNat (b : Byte) : (wide b).toNat = b.toNat := by
  simp [wide, BitVec.toNat_setWidth]; omega

/-! ## The shared ends of an instruction -/

@[simp] theorem finish_eq_next {s t : State} : finish s = .next t ↔ s.advance 2 = t := by simp [finish]

@[simp] theorem skipIf_eq_next {c : Bool} {s t : State} :
    skipIf c s = .next t ↔ s.advance (if c then 4 else 2) = t := by simp [skipIf]

@[simp] theorem writeReg_eq_next {x : Reg} {r : Byte} {s t : State} :
    writeReg x r s = .next t ↔ (s.setReg x r).advance 2 = t := by simp [writeReg]

@[simp] theorem writeRegFlag_eq_next {x : Reg} {r : Byte} {b : Bool} {s t : State} :
    writeRegFlag x r b s = .next t ↔ (s.setRegFlag x r b).advance 2 = t := by simp [writeRegFlag]

@[simp] theorem redraw_eq_next {fb : FrameBuffer} {s t : State} :
    redraw fb s = .next t ↔ ((s.setFb fb).setDraw true).advance 2 = t := by simp [redraw]

/-- Raising a fault records it and changes nothing else (R272). -/
@[simp] theorem raise_eq_next {c : FaultCause} {w : Option Word} {info : Word} {s t : State} :
    raise c w info s = .next t ↔ s.setFault ⟨c, w, s.pc, info⟩ = t := by simp [raise]

/-- A checked access either raises `MemOutOfRange` before any change or is what follows the check (R70). -/
theorem withinRam_eq_next {i : Instr} {last : Nat} {s t : State} {body : Result} :
    withinRam i last s body = .next t ↔
      (0xFFF < last ∧ s.setFault ⟨.memOutOfRange, some (encode i), s.pc, 0x1000⟩ = t) ∨
      (last ≤ 0xFFF ∧ body = .next t) := by
  unfold withinRam
  split
  next h => simp [h]
  next h =>
    have : last ≤ 0xFFF := by omega
    simp [this]

/-- A key skip either tests the key or, for a number above 15, raises `KeyOutOfRange` (R224, R225). -/
theorem keySkip_eq_next {i : Instr} {x : Reg} {d : Bool} {s t : State} :
    keySkip i x d s = .next t ↔
      (∃ k : Fin 16, (s.reg x).toNat = k.val ∧ s.advance (if s.keyDown k == d then 4 else 2) = t) ∨
      (15 < (s.reg x).toNat ∧ s.setFault ⟨.keyOutOfRange, some (encode i), s.pc, wide (s.reg x)⟩ = t) := by
  unfold keySkip keyNumber
  by_cases h : (s.reg x).toNat < 16
  · simp only [h, dif_pos, skipIf_eq_next]
    constructor
    · exact fun he => .inl ⟨⟨_, h⟩, rfl, he⟩
    · rintro (⟨k, hk, he⟩ | ⟨h', _⟩)
      · have : (⟨_, h⟩ : Fin 16) = k := Fin.ext hk
        rw [this]; exact he
      · omega
  · simp only [h, dif_neg, not_false_eq_true, raise_eq_next]
    constructor
    · exact fun he => .inr ⟨by omega, he⟩
    · rintro (⟨k, hk, _⟩ | ⟨_, he⟩)
      · have := k.isLt; omega
      · exact he

/-! ## Block transfers: what the folds leave -/

theorem mem_regsUpTo (x k : Reg) : k ∈ regsUpTo x ↔ k ≤ x := by simp [regsUpTo]

theorem mem_rplUpTo (x : Reg) (k : Fin 8) : k ∈ rplUpTo x ↔ k.val ≤ x.val := by
  simp [rplUpTo]; omega

theorem regsUpTo_nodup (x : Reg) : (regsUpTo x).Nodup := (List.nodup_finRange 16).filter _

theorem rplUpTo_nodup (x : Reg) : (rplUpTo x).Nodup := (List.nodup_finRange 8).filter _

@[simp] theorem rplReg_val (k : Fin 8) : (rplReg k).val = k.val := rfl

/-- A block store changes memory alone. -/
theorem storeBlock_eq (ks : List Reg) (s : State) : storeBlock ks s = { s with mem := (storeBlock ks s).mem } := by
  induction ks generalizing s with
  | nil => rfl
  | cons k ks ih =>
    have h := ih (s.setByte (s.indexed k.val) (s.reg k))
    exact h

/-- The bytes after a block store: `V[k]` at `I + k` for each register of the block, the old byte elsewhere. -/
theorem storeBlock_byte (ks : List Reg) (s : State) (a : Nat) :
    (storeBlock ks s).byte a =
      if h : s.i.toNat ≤ a ∧ a - s.i.toNat < 16 then
        if (⟨a - s.i.toNat, h.2⟩ : Reg) ∈ ks then s.reg ⟨a - s.i.toNat, h.2⟩ else s.byte a
      else s.byte a := by
  induction ks generalizing s with
  | nil => simp [storeBlock]
  | cons k ks ih =>
    have hstep : storeBlock (k :: ks) s = storeBlock ks (s.setByte (s.indexed k.val) (s.reg k)) := rfl
    rw [hstep, ih]
    simp only [State.setByte_i, State.reg_setByte, State.byte_setByte, State.indexed, List.mem_cons]
    by_cases h : s.i.toNat ≤ a ∧ a - s.i.toNat < 16
    · simp only [h, dif_pos, and_self]
      by_cases hk : (⟨a - s.i.toNat, h.2⟩ : Reg) = k
      · subst hk
        simp [show s.i.toNat + (a - s.i.toNat) = a by omega]
      · have : a ≠ s.i.toNat + k.val := fun ha => hk (Fin.ext (by simp; omega))
        simp [this, hk]
    · have : a ≠ s.i.toNat + k.val := fun ha => h ⟨by omega, by have := k.isLt; omega⟩
      simp [h, this]

/-- A block load changes the registers alone. -/
theorem loadBlock_eq (ks : List Reg) (s : State) : loadBlock ks s = { s with v := (loadBlock ks s).v } := by
  induction ks generalizing s with
  | nil => rfl
  | cons k ks ih => exact ih (s.setReg k (s.indexedByte k.val))

/-- The registers after a block load: the byte at `I + k` for each register of the block, the old value elsewhere. -/
theorem loadBlock_reg (ks : List Reg) (s : State) (k : Reg) :
    (loadBlock ks s).reg k = if k ∈ ks then s.indexedByte k.val else s.reg k := by
  induction ks generalizing s with
  | nil => simp [loadBlock]
  | cons j ks ih =>
    have hstep : loadBlock (j :: ks) s = loadBlock ks (s.setReg j (s.indexedByte j.val)) := rfl
    rw [hstep, ih]
    simp only [State.reg_setReg, State.indexedByte, State.indexed, State.byte_setReg, State.setReg_i, List.mem_cons]
    by_cases hj : k = j
    · subst hj; simp
    · simp [hj]

/-- A save to the RPL flags changes them alone. -/
theorem saveRpl_eq (ks : List (Fin 8)) (s : State) : saveRpl ks s = { s with rpl := (saveRpl ks s).rpl } := by
  induction ks generalizing s with
  | nil => rfl
  | cons k ks ih => exact ih (s.setRpl k (s.reg (rplReg k)))

theorem saveRpl_rpl (ks : List (Fin 8)) (s : State) (k : Fin 8) :
    (saveRpl ks s).rpl[k.val] = if k ∈ ks then s.reg (rplReg k) else s.rpl[k.val] := by
  induction ks generalizing s with
  | nil => simp [saveRpl]
  | cons j ks ih =>
    have hstep : saveRpl (j :: ks) s = saveRpl ks (s.setRpl j (s.reg (rplReg j))) := rfl
    rw [hstep, ih]
    have hreg : ∀ y, (s.setRpl j (s.reg (rplReg j))).reg y = s.reg y := fun _ => rfl
    simp only [State.rpl_setRpl, hreg, List.mem_cons]
    by_cases hj : k = j
    · subst hj; simp
    · simp [hj]

/-- A recall from the RPL flags changes the registers alone. -/
theorem recallRpl_eq (ks : List (Fin 8)) (s : State) : recallRpl ks s = { s with v := (recallRpl ks s).v } := by
  induction ks generalizing s with
  | nil => rfl
  | cons k ks ih => exact ih (s.setReg (rplReg k) s.rpl[k.val])

theorem recallRpl_reg (ks : List (Fin 8)) (s : State) (y : Reg) :
    (recallRpl ks s).reg y =
      if h : y.val < 8 then if (⟨y.val, h⟩ : Fin 8) ∈ ks then s.rpl[y.val] else s.reg y else s.reg y := by
  induction ks generalizing s with
  | nil => simp [recallRpl]
  | cons j ks ih =>
    have hstep : recallRpl (j :: ks) s = recallRpl ks (s.setReg (rplReg j) s.rpl[j.val]) := rfl
    rw [hstep, ih]
    simp only [State.reg_setReg, State.setReg_rpl, List.mem_cons]
    by_cases h : y.val < 8
    · simp only [h, dif_pos]
      by_cases hj : (⟨y.val, h⟩ : Fin 8) = j
      · subst hj
        have : y = rplReg ⟨y.val, h⟩ := Fin.ext rfl
        simp [← this]
      · have : y ≠ rplReg j := fun hy => hj (Fin.ext (by simp [hy]))
        simp [this, hj]
    · have : y ≠ rplReg j := fun hy => h (by rw [hy]; exact j.isLt)
      simp [h, this]

/-! ## Sprite draws -/

/-- A blit flips each listed cell once, collides exactly when one of them is set, and draws exactly when one is unset. -/
theorem blit_spec (fb : FrameBuffer) (cells : List Pixel) (h : cells.Nodup) :
    (∀ c, (blit fb cells).fb.lit c = (fb.lit c != decide (c ∈ cells))) ∧
    ((blit fb cells).hit = true ↔ ∃ c ∈ cells, fb.lit c = true) ∧
    ((blit fb cells).drew = true ↔ ∃ c ∈ cells, fb.lit c = false) := by
  suffices H : ∀ (cells : List Pixel) (b : Blit), cells.Nodup →
      (∀ c, (cells.foldl blitCell b).fb.lit c = (b.fb.lit c != decide (c ∈ cells))) ∧
      ((cells.foldl blitCell b).hit = true ↔ b.hit = true ∨ ∃ c ∈ cells, b.fb.lit c = true) ∧
      ((cells.foldl blitCell b).drew = true ↔ b.drew = true ∨ ∃ c ∈ cells, b.fb.lit c = false) by
    simpa [blit] using H cells ⟨fb, false, false⟩ h
  clear h fb cells
  intro cells
  induction cells with
  | nil => simp
  | cons d cells ih =>
    intro b hnd
    obtain ⟨hd, hn⟩ := List.nodup_cons.1 hnd
    obtain ⟨h1, h2, h3⟩ := ih (blitCell b d) hn
    have hne : ∀ c ∈ cells, c ≠ d := fun c hc h => hd (h ▸ hc)
    simp only [List.foldl_cons]
    refine ⟨fun c => ?_, ?_, ?_⟩
    · rw [h1 c, blitCell, FrameBuffer.lit_toggle]
      by_cases hc : c = d
      · subst hc; simp [hd]
      · simp [hc]
    · rw [h2]
      simp only [blitCell, Bool.or_eq_true, List.mem_cons, exists_eq_or_imp, or_assoc]
      refine or_congr_right (or_congr_right (exists_congr fun c => and_congr_right fun hc => ?_))
      rw [FrameBuffer.lit_toggle, if_neg (hne c hc)]
    · rw [h3]
      simp only [blitCell, Bool.or_eq_true, List.mem_cons, exists_eq_or_imp, or_assoc, Bool.not_eq_true']
      refine or_congr_right (or_congr_right (exists_congr fun c => and_congr_right fun hc => ?_))
      rw [FrameBuffer.lit_toggle, if_neg (hne c hc)]

theorem blit_wf {w : Nat} {fb : FrameBuffer} (h : fb.wf w = true) {cells : List Pixel}
    (hc : ∀ c ∈ cells, c.1 < w ∧ c.2 < Config.canvasH) : (blit fb cells).fb.wf w = true := by
  suffices H : ∀ (cells : List Pixel) (b : Blit), b.fb.wf w = true →
      (∀ c ∈ cells, c.1 < w ∧ c.2 < Config.canvasH) → (cells.foldl blitCell b).fb.wf w = true from H cells ⟨fb, false, false⟩ h hc
  clear h hc cells fb
  intro cells
  induction cells with
  | nil => exact fun b h _ => h
  | cons d cells ih =>
    exact fun b h hc => ih _ (FrameBuffer.wf_toggle h (hc d (by simp)).1 (hc d (by simp)).2) fun c hm => hc c (by simp [hm])

theorem State.wMode_bounds (s : State) : 64 ≤ s.wMode ∧ s.wMode ≤ s.params.canvasW := by
  unfold State.wMode Params.canvasW Config.loresW
  cases s.mode <;> cases s.params.canvas <;> simp

theorem State.hMode_bounds (s : State) : 32 ≤ s.hMode ∧ s.hMode ≤ Config.canvasH := by
  unfold State.hMode Config.loresH Config.canvasH
  cases s.mode <;> simp

theorem State.spriteWidth_le (s : State) (n : Nat) : s.spriteWidth n ≤ 16 := by
  unfold State.spriteWidth; split <;> omega

theorem spriteHeight_le {n : Nat} (h : n < 16) : spriteHeight n ≤ 16 := by
  unfold spriteHeight; split <;> omega

theorem State.mem_spriteCells (s : State) (cx cy : Byte) (n : Nat) (p : Pixel) :
    p ∈ s.spriteCells cx cy n ↔
      ∃ r < spriteHeight n, ∃ c < s.spriteWidth n, s.spriteBit n r c = true ∧ s.spriteCell cx cy r c = p := by
  simp only [State.spriteCells, List.mem_flatMap, List.mem_filterMap, List.mem_range]
  constructor
  · rintro ⟨r, hr, c, hc, h⟩
    split at h <;> simp at h
    exact ⟨r, hr, c, hc, by assumption, h⟩
  · rintro ⟨r, hr, c, hc, hb, h⟩
    exact ⟨r, hr, c, hc, by simp [hb, h]⟩

/-- Two places of a sprite no taller and no wider than 16 never fall on one cell (R250). -/
theorem State.spriteCell_inj (s : State) (cx cy : Byte) {r c r' c' : Nat} (hr : r < 16) (hc : c < 16) (hr' : r' < 16)
    (hc' : c' < 16) (h : s.spriteCell cx cy r c = s.spriteCell cx cy r' c') : r = r' ∧ c = c' := by
  obtain ⟨h1, h2⟩ := Prod.mk.inj h
  have hw := (s.wMode_bounds).1
  have hh := (s.hMode_bounds).1
  have key : ∀ a b m k : Nat, 16 ≤ m → a < 16 → b < 16 → (k + a) % m = (k + b) % m → a = b := by
    intro a b m k hm ha hb hmod
    have := Nat.ModEq.add_left_cancel' k (show k + a ≡ k + b [MOD m] from hmod)
    rwa [Nat.ModEq, Nat.mod_eq_of_lt (by omega), Nat.mod_eq_of_lt (by omega)] at this
  exact ⟨key _ _ _ _ (by omega) hr hr' h2, key _ _ _ _ (by omega) hc hc' h1⟩

theorem State.spriteCells_nodup (s : State) (cx cy : Byte) {n : Nat} (hn : n < 16) : (s.spriteCells cx cy n).Nodup := by
  have hH := spriteHeight_le hn
  have hW := s.spriteWidth_le n
  rw [State.spriteCells, List.nodup_flatMap]
  have key : ∀ r < spriteHeight n, ∀ r' < spriteHeight n, ∀ c < s.spriteWidth n, ∀ c' < s.spriteWidth n, ∀ p,
      (if s.spriteBit n r c then some (s.spriteCell cx cy r c) else none) = some p →
      (if s.spriteBit n r' c' then some (s.spriteCell cx cy r' c') else none) = some p → r = r' ∧ c = c' := by
    intro r hr r' hr' c hc c' hc' p h1 h2
    split at h1 <;> simp at h1
    split at h2 <;> simp at h2
    exact s.spriteCell_inj cx cy (by omega) (by omega) (by omega) (by omega) (h1.trans h2.symm)
  refine ⟨fun r hr => ?_, ?_⟩
  · rw [List.Nodup, List.pairwise_filterMap]
    refine List.nodup_range.imp_of_mem fun hc hc' hne p hp p' hp' h => hne ?_
    rw [List.mem_range] at *
    subst h
    exact (key _ hr _ hr _ hc _ hc' _ hp hp').2
  · refine List.nodup_range.imp_of_mem fun hr hr' hne => ?_
    rw [List.mem_range] at *
    intro p hp hp'
    obtain ⟨c, hc, h1⟩ := List.mem_filterMap.1 hp
    obtain ⟨c', hc', h2⟩ := List.mem_filterMap.1 hp'
    rw [List.mem_range] at *
    exact hne (key _ hr _ hr' _ hc _ hc' _ h1 h2).1

/-- Every cell of a sprite lies in the addressable area of the mode (R33, R250). -/
theorem State.spriteCells_inside (s : State) {cx cy : Byte} {n : Nat} {p : Pixel} (h : p ∈ s.spriteCells cx cy n) :
    p.1 < s.wMode ∧ p.2 < s.hMode := by
  obtain ⟨r, _, c, _, _, rfl⟩ := (s.mem_spriteCells cx cy n p).1 h
  have h1 := s.wMode_bounds.1
  have h2 := s.hMode_bounds.1
  exact ⟨Nat.mod_lt _ (by omega), Nat.mod_lt _ (by omega)⟩

end Sys2Proof.Machine
end

