-- ==== Sys2Proof/Laws/Parts.lean ====
section
/-! SUPPORT. Frames: which parts each operation may change. A proof about an instruction chains these. -/

namespace Sys2Proof.Machine

theorem Part.same_refl (p : Part) (s : State) : p.same s s := by cases p <;> rfl

theorem Part.same_trans {p : Part} {s t u : State} (h1 : p.same s t) (h2 : p.same t u) : p.same s u := by
  cases p <;> exact Eq.trans h2 h1

theorem Part.same_symm {p : Part} {s t : State} (h : p.same s t) : p.same t s := by
  cases p <;> exact Eq.symm h

theorem ChangesOnly.refl (ps : Part → Prop) (s : State) : ChangesOnly ps s s := fun p _ => p.same_refl s

theorem ChangesOnly.mono {ps qs : Part → Prop} {s t : State} (h : ChangesOnly ps s t) (hpq : ∀ p, ps p → qs p) :
    ChangesOnly qs s t := fun p hp => h p fun hps => hp (hpq p hps)

theorem ChangesOnly.trans {ps : Part → Prop} {s t u : State} (h1 : ChangesOnly ps s t) (h2 : ChangesOnly ps t u) :
    ChangesOnly ps s u := fun p hp => Part.same_trans (h1 p hp) (h2 p hp)

/-! ## Setters -/

theorem State.setReg_changes (s : State) (x : Reg) (b : Byte) : ChangesOnly (· = .reg x) s (s.setReg x b) := by
  intro p hp
  cases p <;> try rfl
  case reg y =>
    show (s.setReg x b).reg y = s.reg y
    rw [State.reg_setReg, if_neg (by simpa using hp)]

theorem State.setIndex_changes (s : State) (a : Word) : ChangesOnly (· = .index) s (s.setIndex a) := by
  intro p hp; cases p <;> first | rfl | exact absurd rfl hp

theorem State.setPc_changes (s : State) (a : Word) : ChangesOnly (· = .pc) s (s.setPc a) := by
  intro p hp; cases p <;> first | rfl | exact absurd rfl hp

theorem State.advance_changes (s : State) (k : Word) : ChangesOnly (· = .pc) s (s.advance k) := s.setPc_changes _

theorem State.setStack_changes (s : State) (k : Fin 16) (a : Word) : ChangesOnly (· = .stack k) s (s.setStack k a) := by
  intro p hp
  cases p <;> try rfl
  case stack j =>
    have : k.val ≠ j.val := fun h => hp (by rw [Fin.ext h])
    simp [Part.same, this]

theorem State.setSp_changes (s : State) (k : Fin 16) : ChangesOnly (· = .sp) s (s.setSp k) := by
  intro p hp; cases p <;> first | rfl | exact absurd rfl hp

theorem State.setDt_changes (s : State) (b : Byte) : ChangesOnly (· = .dt) s (s.setDt b) := by
  intro p hp; cases p <;> first | rfl | exact absurd rfl hp

theorem State.setSt_changes (s : State) (b : Byte) : ChangesOnly (· = .st) s (s.setSt b) := by
  intro p hp; cases p <;> first | rfl | exact absurd rfl hp

theorem State.setFb_changes (s : State) (fb : FrameBuffer) : ChangesOnly (fun p => ∃ c, p = .cell c) s (s.setFb fb) := by
  intro p hp; cases p <;> first | rfl | exact absurd ⟨_, rfl⟩ hp

theorem State.setMode_changes (s : State) (m : Mode) : ChangesOnly (· = .mode) s (s.setMode m) := by
  intro p hp; cases p <;> first | rfl | exact absurd rfl hp

theorem State.setKey_changes (s : State) (k : Vector Bool 16) : ChangesOnly (fun p => ∃ j, p = .key j) s (s.setKey k) := by
  intro p hp; cases p <;> first | rfl | exact absurd ⟨_, rfl⟩ hp

theorem State.setRpl_changes (s : State) (k : Fin 8) (b : Byte) : ChangesOnly (· = .rpl k) s (s.setRpl k b) := by
  intro p hp
  cases p <;> try rfl
  case rpl j =>
    have : k.val ≠ j.val := fun h => hp (by rw [Fin.ext h])
    simp [Part.same, this]

theorem State.setDraw_changes (s : State) (b : Bool) : ChangesOnly (· = .draw) s (s.setDraw b) := by
  intro p hp; cases p <;> first | rfl | exact absurd rfl hp

theorem State.setFault_changes (s : State) (r : FaultRecord) : ChangesOnly (· = .fault) s (s.setFault r) := by
  intro p hp; cases p <;> first | rfl | exact absurd rfl hp

theorem State.setByte_changes (s : State) (a : Nat) (b : Byte) : ChangesOnly (· = .byte a) s (s.setByte a b) := by
  intro p hp
  cases p with
  | byte c =>
    show (s.setByte a b).byte c = s.byte c
    rw [State.byte_setByte, if_neg (by simpa using hp)]
  | _ => rfl

theorem State.countDraw_changes (s : State) : ChangesOnly (· = .rngDraws) s s.countDraw := by
  intro p hp; cases p <;> first | rfl | exact absurd rfl hp

theorem State.setSchedule_changes (s : State) (es : Schedule) : ChangesOnly (· = .schedule) s (s.setSchedule es) := by
  intro p hp; cases p <;> first | rfl | exact absurd rfl hp

theorem State.setFrame_changes (s : State) (f : Frame) : ChangesOnly (· = .frameTaken) s (s.setFrame f) := by
  intro p hp; cases p <;> first | rfl | exact absurd rfl hp

theorem State.setGate_changes (s : State) (b : Bool) : ChangesOnly (· = .gateSampled) s (s.setGate b) := by
  intro p hp; cases p <;> first | rfl | exact absurd rfl hp

/-! ## Shared operations -/

theorem State.setRegFlag_changes (s : State) (x : Reg) (r : Byte) (b : Bool) :
    ChangesOnly (fun p => p = .reg x ∨ p = .reg vf) s (s.setRegFlag x r b) :=
  ((s.setReg_changes x r).mono fun _ h => .inl h).trans (((s.setReg x r).setReg_changes vf _).mono fun _ h => .inr h)

theorem State.push_changes (s : State) (a : Word) : ChangesOnly (fun p => p = .stack s.sp ∨ p = .sp) s (s.push a) :=
  ((s.setStack_changes _ a).mono fun _ h => .inl h).trans ((State.setSp_changes _ _).mono fun _ h => .inr h)

theorem storeBlock_changes (ks : List Reg) (s : State) :
    ChangesOnly (fun p => ∃ k ∈ ks, p = .byte (s.indexed k.val)) s (storeBlock ks s) := by
  induction ks generalizing s with
  | nil => exact ChangesOnly.refl _ _
  | cons k ks ih =>
    exact ((s.setByte_changes _ _).mono fun p h => ⟨k, by simp, h⟩).trans
      ((ih (s.setByte (s.indexed k.val) (s.reg k))).mono fun p ⟨j, hj, h⟩ => ⟨j, by simp [hj], h⟩)

theorem loadBlock_changes (ks : List Reg) (s : State) :
    ChangesOnly (fun p => ∃ k ∈ ks, p = .reg k) s (loadBlock ks s) := by
  induction ks generalizing s with
  | nil => exact ChangesOnly.refl _ _
  | cons k ks ih =>
    exact ((s.setReg_changes _ _).mono fun p h => ⟨k, by simp, h⟩).trans
      ((ih (s.setReg k (s.indexedByte k.val))).mono fun p ⟨j, hj, h⟩ => ⟨j, by simp [hj], h⟩)

theorem saveRpl_changes (ks : List (Fin 8)) (s : State) :
    ChangesOnly (fun p => ∃ k ∈ ks, p = .rpl k) s (saveRpl ks s) := by
  induction ks generalizing s with
  | nil => exact ChangesOnly.refl _ _
  | cons k ks ih =>
    exact ((s.setRpl_changes _ _).mono fun p h => ⟨k, by simp, h⟩).trans
      ((ih (s.setRpl k (s.reg (rplReg k)))).mono fun p ⟨j, hj, h⟩ => ⟨j, by simp [hj], h⟩)

theorem recallRpl_changes (ks : List (Fin 8)) (s : State) :
    ChangesOnly (fun p => ∃ k ∈ ks, p = .reg (rplReg k)) s (recallRpl ks s) := by
  induction ks generalizing s with
  | nil => exact ChangesOnly.refl _ _
  | cons k ks ih =>
    exact ((s.setReg_changes _ _).mono fun p h => ⟨k, by simp, h⟩).trans
      ((ih (s.setReg (rplReg k) s.rpl[k.val])).mono fun p ⟨j, hj, h⟩ => ⟨j, by simp [hj], h⟩)

/-- A finished draw changes the listed cells, `VF` and `DRAW`. -/
theorem State.drawn_changes (s : State) (cells : List Pixel) (h : cells.Nodup) :
    ChangesOnly (fun p => (∃ c ∈ cells, p = .cell c) ∨ p = .reg vf ∨ p = .draw) s (s.drawn (blit s.fb cells)) := by
  refine ChangesOnly.trans (t := s.setFb (blit s.fb cells).fb) ?_ (ChangesOnly.trans
    (((State.setReg_changes _ vf _)).mono fun _ h => .inr (.inl h))
    ((State.setDraw_changes _ _).mono fun _ h => .inr (.inr h)))
  intro p hp
  cases p with
  | cell c =>
    show (blit s.fb cells).fb.lit c = s.fb.lit c
    rw [(blit_spec s.fb cells h).1 c, decide_eq_false fun hc => hp (.inl ⟨c, hc, rfl⟩)]
    simp
  | _ => rfl

/-- The reset keeps the model's own fields and the ROM (R300, log 11). -/
theorem State.restart_changes (s : State) :
    ChangesOnly (fun p => p ∉ [.romCache, .params, .rngDraws, .schedule, .frameTaken, .gateSampled]) s s.restart := by
  intro p hp
  cases p <;> first | rfl | exact absurd (by simp) hp

theorem State.takeEvent_changes (s : State) : ChangesOnly (· = .schedule) s s.takeEvent := s.setSchedule_changes _

end Sys2Proof.Machine
end

