-- ==== Sys2Proof/Laws/PerInstr.lean ====
section
/-! SUPPORT. Per instruction: its word selects its own row of the opcode map (30_encoding.md R96). -/

namespace Sys2Proof.Laws.EncodesRow

/-- The instruction's word has the fixed bits of its row, whatever its operands. -/
def Statement (i : Instr) : Prop := (opcodeRow i).selects (encode i) = true

theorem selects_F000 {w p : Word} (h : formatFA (fieldOp w) 0 = p) : OpcodeRow.selects ⟨0xF000, p⟩ w = true := by
  rw [OpcodeRow.selects, and_F000, h]; simp

theorem selects_F00F {w p : Word} (h : formatFXYN (fieldOp w) 0 0 (fieldN w) = p) :
    OpcodeRow.selects ⟨0xF00F, p⟩ w = true := by
  rw [OpcodeRow.selects, and_F00F, h]; simp

theorem selects_F0FF {w p : Word} (h : formatFXK (fieldOp w) 0 (fieldKK w) = p) :
    OpcodeRow.selects ⟨0xF0FF, p⟩ w = true := by
  rw [OpcodeRow.selects, and_F0FF, h]; simp

theorem scd (n : Nat) : Statement (.scd n) := by
  refine decide_eq_true ?_
  show formatFN n &&& 0xFFF0 = 0x00C0
  apply BitVec.eq_of_toNat_eq
  rw [and_FFF0, BitVec.toNat_append, BitVec.extractLsb'_toNat, Nat.shiftRight_eq_div_pow, formatFN_toNat, Nat.shiftLeft_eq]
  simp
  omega

theorem cls : Statement .cls := rfl

theorem ret : Statement .ret := rfl

theorem scr : Statement .scr := rfl

theorem scl : Statement .scl := rfl

theorem exit : Statement .exit := rfl

theorem low : Statement .low := rfl

theorem high : Statement .high := rfl

theorem jp (nnn : BitVec 12) : Statement (.jp nnn) := selects_F000 (by simp [encode]; decide)

theorem call (nnn : BitVec 12) : Statement (.call nnn) := selects_F000 (by simp [encode]; decide)

theorem seImm (x : Reg) (kk : Byte) : Statement (.seImm x kk) := selects_F000 (by simp [encode]; decide)

theorem sneImm (x : Reg) (kk : Byte) : Statement (.sneImm x kk) := selects_F000 (by simp [encode]; decide)

theorem seReg (x y : Reg) : Statement (.seReg x y) := selects_F00F (by simp [encode]; decide)

theorem ldImm (x : Reg) (kk : Byte) : Statement (.ldImm x kk) := selects_F000 (by simp [encode]; decide)

theorem addImm (x : Reg) (kk : Byte) : Statement (.addImm x kk) := selects_F000 (by simp [encode]; decide)

theorem ldReg (x y : Reg) : Statement (.ldReg x y) := selects_F00F (by simp [encode]; decide)

theorem orReg (x y : Reg) : Statement (.orReg x y) := selects_F00F (by simp [encode]; decide)

theorem andReg (x y : Reg) : Statement (.andReg x y) := selects_F00F (by simp [encode]; decide)

theorem xorReg (x y : Reg) : Statement (.xorReg x y) := selects_F00F (by simp [encode]; decide)

theorem addReg (x y : Reg) : Statement (.addReg x y) := selects_F00F (by simp [encode]; decide)

theorem sub (x y : Reg) : Statement (.sub x y) := selects_F00F (by simp [encode]; decide)

theorem shr (x y : Reg) : Statement (.shr x y) := selects_F00F (by simp [encode]; decide)

theorem subn (x y : Reg) : Statement (.subn x y) := selects_F00F (by simp [encode]; decide)

theorem shl (x y : Reg) : Statement (.shl x y) := selects_F00F (by simp [encode]; decide)

theorem sneReg (x y : Reg) : Statement (.sneReg x y) := selects_F00F (by simp [encode]; decide)

theorem ldI (nnn : BitVec 12) : Statement (.ldI nnn) := selects_F000 (by simp [encode]; decide)

theorem jpV0 (nnn : BitVec 12) : Statement (.jpV0 nnn) := selects_F000 (by simp [encode]; decide)

theorem rnd (x : Reg) (kk : Byte) : Statement (.rnd x kk) := selects_F000 (by simp [encode]; decide)

theorem drw (x y : Reg) (n : Nat) : Statement (.drw x y n) := selects_F000 (by simp [encode]; decide)

theorem skp (x : Reg) : Statement (.skp x) := selects_F0FF (by simp [encode]; decide)

theorem sknp (x : Reg) : Statement (.sknp x) := selects_F0FF (by simp [encode]; decide)

theorem ldVxDT (x : Reg) : Statement (.ldVxDT x) := selects_F0FF (by simp [encode]; decide)

theorem ldVxK (x : Reg) : Statement (.ldVxK x) := selects_F0FF (by simp [encode]; decide)

theorem ldDTVx (x : Reg) : Statement (.ldDTVx x) := selects_F0FF (by simp [encode]; decide)

theorem ldSTVx (x : Reg) : Statement (.ldSTVx x) := selects_F0FF (by simp [encode]; decide)

theorem addI (x : Reg) : Statement (.addI x) := selects_F0FF (by simp [encode]; decide)

theorem ldF (x : Reg) : Statement (.ldF x) := selects_F0FF (by simp [encode]; decide)

theorem ldHF (x : Reg) : Statement (.ldHF x) := selects_F0FF (by simp [encode]; decide)

theorem ldB (x : Reg) : Statement (.ldB x) := selects_F0FF (by simp [encode]; decide)

theorem storeRegs (x : Reg) : Statement (.storeRegs x) := selects_F0FF (by simp [encode]; decide)

theorem loadRegs (x : Reg) : Statement (.loadRegs x) := selects_F0FF (by simp [encode]; decide)

theorem storeRpl (x : Reg) : Statement (.storeRpl x) := selects_F0FF (by simp [encode]; decide)

theorem loadRpl (x : Reg) : Statement (.loadRpl x) := selects_F0FF (by simp [encode]; decide)

end Sys2Proof.Laws.EncodesRow
end

