-- ==== Sys2Proof/Laws/Schedule.lean ====
section
/-! SUPPORT. Which event is due after any number of events, for each form of a schedule. -/

namespace Sys2Proof.Machine

@[simp] theorem Schedule.due_cons (e : Event) (first : List Event) (o : Onward) : Schedule.due ⟨e :: first, o⟩ = e := rfl

@[simp] theorem Schedule.rest_cons (e : Event) (first : List Event) (o : Onward) :
    Schedule.rest ⟨e :: first, o⟩ = ⟨first, o⟩ := rfl

@[simp] theorem Schedule.due_always (e : Event) : (Schedule.always e).due = e := rfl

@[simp] theorem Schedule.rest_always (e : Event) : (Schedule.always e).rest = Schedule.always e := rfl

@[simp] theorem Schedule.due_cycles : Schedule.cycles.due = .cycle := rfl

@[simp] theorem Schedule.rest_cycles : Schedule.cycles.rest = Schedule.cycles := rfl

/-- The first events come before all others. -/
theorem Schedule.rest_iterate_first (first : List Event) (o : Onward) (k : Nat) :
    Schedule.rest^[first.length + k] ⟨first, o⟩ = Schedule.rest^[k] ⟨[], o⟩ := by
  induction first with
  | nil => simp
  | cons e first ih => rw [List.length_cons, Nat.add_right_comm, Function.iterate_succ_apply, rest_cons, ih]

theorem Schedule.rest_iterate_onward (o : Onward) (k : Nat) :
    Schedule.rest^[k] ⟨[], o⟩ = ⟨[], Onward.rest^[k] o⟩ := by
  induction k generalizing o with
  | zero => rfl
  | succ k ih => rw [Function.iterate_succ_apply, Function.iterate_succ_apply]; exact ih _

theorem Onward.rest_iterate_free (n k : Nat) : Onward.rest^[k] (.free n) = .free (n + k) := by
  induction k generalizing n with
  | zero => rfl
  | succ k ih => rw [Function.iterate_succ_apply]; exact (ih (n + 1)).trans (by rw [Nat.add_right_comm]; rfl)

/-- A repeating sequence gives the events of its period in turn. -/
theorem Onward.due_rest_iterate_repeating (e : Event) (es : List Event) (k : Nat) :
    (Onward.rest^[k] (.repeating e es)).due = (e :: es).getD (k % (es.length + 1)) e := by
  suffices H : ∀ k e es, ∃ f fs, Onward.rest^[k] (.repeating e es) = .repeating f fs ∧ f :: fs = (e :: es).rotate k by
    obtain ⟨f, fs, h1, h2⟩ := H k e es
    have hf : (f :: fs)[0]? = some f := rfl
    rw [h2, List.getElem?_rotate (by simp)] at hf
    rw [h1, List.getD_eq_getElem?_getD]
    simp only [Nat.zero_add, List.length_cons] at hf
    rw [hf]; rfl
  intro k
  induction k with
  | zero => exact fun e es => ⟨e, es, rfl, by simp⟩
  | succ k ih =>
    intro e es
    cases es with
    | nil =>
      obtain ⟨f, fs, h1, h2⟩ := ih e []
      exact ⟨f, fs, by rw [Function.iterate_succ_apply]; exact h1, by rw [h2]; simp⟩
    | cons g gs =>
      obtain ⟨f, fs, h1, h2⟩ := ih g (gs ++ [e])
      exact ⟨f, fs, by rw [Function.iterate_succ_apply]; exact h1, by rw [h2, List.rotate_cons_succ]; rfl⟩

end Sys2Proof.Machine
end

