-- ==== Sys2Proof/Laws/Step.lean ====
section
/-! SUPPORT. Everything a cycle, an event and a step can answer, and what placing a word for the next fetch gives. -/

namespace Sys2Proof.Machine

/-- A cycle that goes on raises `FetchOutOfRange`, raises `UnknownOpcode`, or executes the decoded instruction (R273). -/
theorem cycle_eq_next {s t : State} :
    cycle s = .next t ↔
      (0xFFF < s.pc.toNat + 1 ∧ s.setFault ⟨.fetchOutOfRange, none, s.pc, s.pc⟩ = t) ∨
      (s.pc.toNat + 1 ≤ 0xFFF ∧
        ((∃ i, decode s.fetchWord = some i ∧ exec i s = .next t) ∨
         (decode s.fetchWord = none ∧ s.setFault ⟨.unknownOpcode, some s.fetchWord, s.pc, s.fetchWord⟩ = t))) := by
  unfold cycle
  split
  next h => simp only [h, true_and, raise_eq_next, show ¬ s.pc.toNat + 1 ≤ 0xFFF by omega, false_and, or_false]
  next h =>
    have h' : s.pc.toNat + 1 ≤ 0xFFF := by omega
    simp only [h, false_and, h', true_and, false_or]
    cases hd : decode s.fetchWord <;> simp

/-- With its word in RAM and decoded, a cycle is `exec`. -/
theorem cycle_of_decode {s : State} {i : Instr} (hp : s.pc.toNat + 1 ≤ 0xFFF) (hd : decode s.fetchWord = some i) :
    cycle s = exec i s := by
  unfold cycle
  rw [if_neg (by omega), hd]

@[simp] theorem unlessFaulted_eq_next {s t : State} {r : Result} :
    unlessFaulted s r = .next t ↔ s.fault = none ∧ r = .next t := by
  unfold unlessFaulted
  cases s.fault <;> simp

/-- Everything an event can do when it goes on (R270). -/
theorem runEvent_eq_next {e : Event} {s t : State} :
    runEvent e s = .next t ↔
      (e = .cycle ∧ s.fault = none ∧ cycle s = .next t) ∨
      (e = .tick ∧ s.fault = none ∧ tick s = t) ∨
      (∃ k, e = .keySnapshot k ∧ s.setKey k = t) ∨
      (e = .drawAck ∧ s.draw = true ∧ drawAck s = t) ∨
      (e = .resetReq ∧ s.fault = none ∧ s.restart = t) := by
  cases e <;> cases hd : s.draw <;> simp [runEvent, hd]

/-- A step that goes on is the event due, where it is enabled. -/
theorem step_eq_next {s t : State} :
    step s = .next t ↔
      (s.dueEvent = .cycle ∧ s.fault = none ∧ cycle s.takeEvent = .next t) ∨
      (s.dueEvent = .tick ∧ s.fault = none ∧ tick s.takeEvent = t) ∨
      (∃ k, s.dueEvent = .keySnapshot k ∧ s.takeEvent.setKey k = t) ∨
      (s.dueEvent = .drawAck ∧ s.draw = true ∧ drawAck s.takeEvent = t) ∨
      (s.dueEvent = .resetReq ∧ s.fault = none ∧ s.takeEvent.restart = t) := runEvent_eq_next

/-- With a `Cycle` due and no fault, a step is a cycle. -/
theorem step_eq_cycle {s : State} (h : s.dueEvent = .cycle) (hf : s.fault = none) : step s = cycle s.takeEvent := by
  have hf' : s.takeEvent.fault = none := hf
  rw [step, h, runEvent, unlessFaulted, hf']

theorem State.takeEvent_cycles {s : State} (h : s.schedule = .cycles) : s.takeEvent = s := by
  cases s; simp only at h; subst h; rfl

/-! ## The word placed for the next fetch -/

theorem State.fetchAddress_le (s : State) : s.fetchAddress.toNat + 1 ≤ 0xFFF := by
  unfold State.fetchAddress
  split
  · decide
  · omega

theorem State.fetchWord_placeWord (s : State) (a : Nat) (w : Word) :
    bigEndian ((s.placeWord a w).byte a) ((s.placeWord a w).byte (a + 1)) = w := by
  simp [State.placeWord, State.byte_setByte]

theorem State.fetchWord_withFetchWord (s : State) (nbits w : Nat) :
    (s.withFetchWord nbits w).fetchWord = tableWord nbits w := State.fetchWord_placeWord _ _ _

/-- The step after placing a word runs the instruction the decoder reads from it. -/
theorem step_withFetchWord (s : State) (nbits w : Nat) {i : Instr} (h : decodeTableWord nbits w = some i) :
    step (s.withFetchWord nbits w) = exec i (s.withFetchWord nbits w) := by
  rw [step_eq_cycle rfl rfl, State.takeEvent_cycles rfl]
  refine cycle_of_decode s.fetchAddress_le ?_
  rw [State.fetchWord_withFetchWord, ← decodeTableWord_eq, h]

end Sys2Proof.Machine
end

