-- ==== Sys2Proof/Tests/Slice0.lean ====
section
/-! SUPPORT. The model's own tests: ill-formed instructions are refused, every constructor is decoded from a word written
out from 30_encoding.md R96, each instruction gives what a vector of 95_test_vectors.md says (its number stands in the
comment), and each statement with premises has a state that meets them. -/

namespace Sys2Proof.Tests

open Sys2Proof.Machine Sys2Proof.Claims

set_option maxRecDepth 20000

/-! ## Small states -/

/-- The reset state with some registers set. -/
def regs (l : List (Reg × Byte)) (s : State := State.reset) : State := l.foldl (fun t p => t.setReg p.1 p.2) s

/-- The reset state with some bytes of RAM set, from an address on. -/
def bytes (a : Nat) (l : List Byte) (s : State := State.reset) : State :=
  (l.zipIdx a).foldl (fun t p => t.setByte p.2 p.1) s

/-- A step that runs the word `w` in the state `s`. -/
def run (w : Nat) (s : State := State.reset) : Result := step (s.withFetchWord 16 w)

/-- The step goes on, to a state of which `p` holds. -/
def gives (r : Result) (p : State → Bool) : Bool :=
  match r with
  | .next t => p t
  | .fault _ => false
  | .refused _ => false

/-! ## Well-formed instructions -/

theorem test_wellFormed_scd : (Instr.scd 15).wellFormed = true ∧ (Instr.scd 16).wellFormed = false := by decide

theorem test_wellFormed_drw : (Instr.drw 1 2 15).wellFormed = true ∧ (Instr.drw 1 2 16).wellFormed = false := by decide

/-! ## Decoding: every constructor, from its pattern in R96, and the host's numbering of a word's bits -/

theorem test_decode_display :
    decode 0x00C3 = some (.scd 3) ∧ decode 0x00E0 = some .cls ∧ decode 0x00EE = some .ret ∧ decode 0x00FB = some .scr ∧
    decode 0x00FC = some .scl ∧ decode 0x00FD = some .exit ∧ decode 0x00FE = some .low ∧ decode 0x00FF = some .high ∧
    decode 0xD125 = some (.drw 1 2 5) := by decide

theorem test_decode_control :
    decode 0x1234 = some (.jp 0x234) ∧ decode 0x2300 = some (.call 0x300) ∧ decode 0x332A = some (.seImm 3 0x2A) ∧
    decode 0x4300 = some (.sneImm 3 0) ∧ decode 0x5120 = some (.seReg 1 2) ∧ decode 0x9120 = some (.sneReg 1 2) ∧
    decode 0xBFFF = some (.jpV0 0xFFF) := by decide

theorem test_decode_alu :
    decode 0x6A2F = some (.ldImm 10 0x2F) ∧ decode 0x7203 = some (.addImm 2 3) ∧ decode 0x8150 = some (.ldReg 1 5) ∧
    decode 0x8121 = some (.orReg 1 2) ∧ decode 0x8122 = some (.andReg 1 2) ∧ decode 0x8123 = some (.xorReg 1 2) ∧
    decode 0x8124 = some (.addReg 1 2) ∧ decode 0x8125 = some (.sub 1 2) ∧ decode 0x8476 = some (.shr 4 7) ∧
    decode 0x8127 = some (.subn 1 2) ∧ decode 0x845E = some (.shl 4 5) ∧ decode 0xC30F = some (.rnd 3 0x0F) := by decide

theorem test_decode_index :
    decode 0xA2F0 = some (.ldI 0x2F0) ∧ decode 0xF21E = some (.addI 2) ∧ decode 0xF129 = some (.ldF 1) ∧
    decode 0xF130 = some (.ldHF 1) ∧ decode 0xF433 = some (.ldB 4) ∧ decode 0xF255 = some (.storeRegs 2) ∧
    decode 0xF265 = some (.loadRegs 2) ∧ decode 0xF175 = some (.storeRpl 1) ∧ decode 0xFF85 = some (.loadRpl 15) := by
  decide

theorem test_decode_timers :
    decode 0xF507 = some (.ldVxDT 5) ∧ decode 0xF515 = some (.ldDTVx 5) ∧ decode 0xF018 = some (.ldSTVx 0) ∧
    decode 0xE29E = some (.skp 2) ∧ decode 0xE2A1 = some (.sknp 2) ∧ decode 0xF30A = some (.ldVxK 3) := by decide

/-- R98 to R100: illegal words. -/
theorem test_decode_illegal :
    decode 0x0000 = none ∧ decode 0x00E1 = none ∧ decode 0x5121 = none ∧ decode 0x8128 = none ∧ decode 0xE09F = none ∧
    decode 0xF0FF = none := by decide

theorem test_decode_table_word : decodeTableWord 16 0xD125 = some (.drw 1 2 5) := by decide

/-! ## Control flow -/

/-- V1 -/
theorem test_jp : gives (run 0x1234) (fun t => t.pc == 0x234) = true := by decide

/-- V3, V6 -/
theorem test_call :
    gives (run 0x2300) (fun t => t.pc == 0x300 && t.sp == 1 && t.stack[0] == 0x200) = true ∧
    gives (run 0x2400 (State.reset.setSp 15)) (fun t => t.sp == 0 && t.stack[15] == 0x200) = true := by decide

/-- V4, V5, V7 -/
theorem test_ret :
    gives (run 0x00EE ((State.reset.setStack 0 0x200).setSp 1)) (fun t => t.pc == 0x202 && t.sp == 0) = true ∧
    gives (run 0x00EE) (fun t => t.pc == 0x002 && t.sp == 15 && t.fault == none) = true ∧
    gives (run 0x00EE ((State.reset.setStack 0 0xFFE).setSp 1)) (fun t => t.pc == 0x000) = true := by decide

/-- S3, V8, V9, V15 -/
theorem test_skips_imm :
    gives (run 0x332A (regs [(3, 0x2A)])) (fun t => t.pc == 0x204) = true ∧
    gives (run 0x332B (regs [(3, 0x2A)])) (fun t => t.pc == 0x202) = true ∧
    gives (run 0x432A (regs [(3, 0x2A)])) (fun t => t.pc == 0x202) = true ∧
    gives (run 0x4300 (regs [(3, 0x2A)])) (fun t => t.pc == 0x204) = true ∧
    gives (run 0x3000 (State.reset.setPc 0xFFE)) (fun t => t.pc == 0x002) = true := by decide

/-- V10 to V13 -/
theorem test_skips_reg :
    gives (run 0x5120 (regs [(1, 7), (2, 7)])) (fun t => t.pc == 0x204) = true ∧
    gives (run 0x5120 (regs [(1, 7), (2, 8)])) (fun t => t.pc == 0x202) = true ∧
    gives (run 0x9120 (regs [(1, 7), (2, 8)])) (fun t => t.pc == 0x204) = true ∧
    gives (run 0x9550) (fun t => t.pc == 0x202) = true := by decide

/-- V16, V17 -/
theorem test_jpV0 :
    gives (run 0xB300 (regs [(0, 0x10)])) (fun t => t.pc == 0x310) = true ∧
    gives (run 0xBFFF (regs [(0, 0xFF)])) (fun t => t.pc == 0x0FE) = true := by decide

/-! ## Arithmetic and logic -/

/-- V20, V24 -/
theorem test_moves :
    gives (run 0x6A2F) (fun t => t.reg 10 == 0x2F && t.pc == 0x202) = true ∧
    gives (run 0x8150 (regs [(5, 0x44)])) (fun t => t.reg 1 == 0x44) = true := by decide

/-- V22, V23 -/
theorem test_addImm :
    gives (run 0x7201 (regs [(2, 0xFF), (15, 0x55)])) (fun t => t.reg 2 == 0 && t.reg 15 == 0x55) = true ∧
    gives (run 0x7F01 (regs [(15, 0xFF)])) (fun t => t.reg 15 == 0) = true := by decide

/-- V25 to V27 -/
theorem test_bitwise :
    gives (run 0x8121 (regs [(1, 0x0F), (2, 0xF0), (15, 7)])) (fun t => t.reg 1 == 0xFF && t.reg 15 == 7) = true ∧
    gives (run 0x8122 (regs [(1, 0x3C), (2, 0x0F)])) (fun t => t.reg 1 == 0x0C) = true ∧
    gives (run 0x8123 (regs [(1, 0x3C), (2, 0x0F)])) (fun t => t.reg 1 == 0x33) = true := by decide

/-- S4, V31, V32, V33 -/
theorem test_addReg :
    gives (run 0x8124 (regs [(1, 0xFF), (2, 3)])) (fun t => t.reg 1 == 2 && t.reg 15 == 1) = true ∧
    gives (run 0x8124 (regs [(1, 0x7F), (2, 0x80)])) (fun t => t.reg 1 == 0xFF && t.reg 15 == 0) = true ∧
    gives (run 0x8F14 (regs [(15, 0xFF), (1, 3)])) (fun t => t.reg 15 == 1) = true ∧
    gives (run 0x81F4 (regs [(1, 0x10), (15, 1)])) (fun t => t.reg 1 == 0x11 && t.reg 15 == 0) = true := by decide

/-- S6, V34, V36 -/
theorem test_sub :
    gives (run 0x8125 (regs [(1, 8), (2, 9)])) (fun t => t.reg 1 == 0xFF && t.reg 15 == 0) = true ∧
    gives (run 0x8125 (regs [(1, 5), (2, 5)])) (fun t => t.reg 1 == 0 && t.reg 15 == 1) = true ∧
    gives (run 0x8F15 (regs [(15, 2), (1, 3)])) (fun t => t.reg 15 == 0) = true := by decide

/-- V38, V39 -/
theorem test_subn :
    gives (run 0x8127 (regs [(1, 9), (2, 8)])) (fun t => t.reg 1 == 0xFF && t.reg 15 == 0) = true ∧
    gives (run 0x8127 (regs [(1, 8), (2, 9)])) (fun t => t.reg 1 == 1 && t.reg 15 == 1) = true := by decide

/-- The normal core with the legacy shift variant. -/
def legacy (s : State) : State := { s with params := { s.params with shift := .legacy } }

/-- V41, V43, V47 -/
theorem test_shr :
    gives (run 0x8476 (regs [(4, 5), (7, 0xAA)])) (fun t => t.reg 4 == 2 && t.reg 15 == 1 && t.reg 7 == 0xAA) = true ∧
    gives (run 0x8FF6 (regs [(15, 3)])) (fun t => t.reg 15 == 1) = true ∧
    gives (run 0x8456 (legacy (regs [(5, 7)]))) (fun t => t.reg 4 == 3 && t.reg 15 == 1 && t.reg 5 == 7) = true := by
  decide

/-- V44, V46, V48 -/
theorem test_shl :
    gives (run 0x840E (regs [(4, 0x81)])) (fun t => t.reg 4 == 2 && t.reg 15 == 1) = true ∧
    gives (run 0x8FFE (regs [(15, 3)])) (fun t => t.reg 15 == 0) = true ∧
    gives (run 0x845E (legacy (regs [(5, 0xC1)]))) (fun t => t.reg 4 == 0x82 && t.reg 15 == 1) = true := by decide

/-- V50 for every byte the oracle may give: the low mask bits of 0xC300 are all clear. -/
theorem test_rnd : ∃ t, exec (.rnd 3 0) State.reset = .next t ∧ t.reg 3 = 0 ∧ t.rngDraws = 1 := by
  refine ⟨_, rfl, ?_, rfl⟩
  show Config.rngByte 0 &&& 0#8 = 0
  simp

/-! ## Index register, loads and stores -/

/-- V60 -/
theorem test_ldI : gives (run 0xA2F0) (fun t => t.i == 0x2F0) = true := by decide

/-- V61, V62, V64 -/
theorem test_addI :
    gives (run 0xF21E ((regs [(2, 0x20)]).setIndex 0xFF0)) (fun t => t.i == 0x010 && t.reg 15 == 1) = true ∧
    gives (run 0xF21E ((regs [(2, 1), (15, 9)]).setIndex 0xFFE)) (fun t => t.i == 0xFFF && t.reg 15 == 0) = true ∧
    gives (run 0xFF1E ((regs [(15, 5)]).setIndex 0x100)) (fun t => t.i == 0x105 && t.reg 15 == 0) = true := by decide

/-- V65, V67 -/
theorem test_ldF :
    gives (run 0xF129 (regs [(1, 0x0A)])) (fun t => t.i == 0x032) = true ∧
    gives (run 0xF129 (regs [(1, 0xFF)])) (fun t => t.i == 0x4FB) = true := by decide

/-- V68, V70 -/
theorem test_ldHF :
    gives (run 0xF130 (regs [(1, 2)])) (fun t => t.i == 0x064) = true ∧
    gives (run 0xF130 (regs [(1, 0xFF)])) (fun t => t.i == 0xA46) = true := by decide

/-- S10, V74 -/
theorem test_ldB :
    gives (run 0xF433 ((regs [(4, 0x7B)]).setIndex 0x300))
      (fun t => t.byte 0x300 == 1 && t.byte 0x301 == 2 && t.byte 0x302 == 3 && t.i == 0x300) = true ∧
    gives (run 0xF433 ((regs [(4, 99)]).setIndex 0xFFD))
      (fun t => t.byte 0xFFD == 0 && t.byte 0xFFE == 9 && t.byte 0xFFF == 9) = true := by decide

/-- V75 -/
theorem test_ldB_past_top :
    gives (run 0xF433 ((regs [(4, 99)]).setIndex 0xFFE))
      (fun t => t.fault == some ⟨.memOutOfRange, some 0xF433, 0x200, 0x1000⟩ && t.byte 0xFFE == 0 && t.pc == 0x200) =
      true := by decide

/-- V76, V77 -/
theorem test_storeRegs :
    gives (run 0xF255 ((regs [(0, 1), (1, 2), (2, 3), (3, 4)]).setIndex 0x300))
      (fun t => t.byte 0x300 == 1 && t.byte 0x301 == 2 && t.byte 0x302 == 3 && t.byte 0x303 == 0 && t.i == 0x300) = true ∧
    gives (run 0xF055 ((regs [(0, 0xAB)]).setIndex 0xFFF)) (fun t => t.byte 0xFFF == 0xAB && t.fault == none) = true := by
  decide

/-- V80, V81 -/
theorem test_loadRegs :
    gives (run 0xF265 ((bytes 0x300 [7, 8, 9] (regs [(3, 0x77)])).setIndex 0x300))
      (fun t => t.reg 0 == 7 && t.reg 1 == 8 && t.reg 2 == 9 && t.reg 3 == 0x77 && t.i == 0x300) = true ∧
    gives (run 0xFF65 ((bytes 0x30F [0x42]).setIndex 0x300)) (fun t => t.reg 15 == 0x42) = true := by decide

/-- V82, V83 -/
theorem test_storeRpl :
    gives (run 0xF175 (regs [(0, 0xAA), (1, 0xBB), (2, 0xCC)]))
      (fun t => t.rpl[0] == 0xAA && t.rpl[1] == 0xBB && t.rpl[2] == 0) = true ∧
    gives (run 0xFF75 (regs [(0, 0x10), (7, 0x17), (8, 0x18)])) (fun t => t.rpl[0] == 0x10 && t.rpl[7] == 0x17) = true := by
  decide

/-- V84 -/
theorem test_loadRpl :
    gives (run 0xFF85 ((State.setRpl (regs [(8, 0xEE)]) 0 1).setRpl 7 8))
      (fun t => t.reg 0 == 1 && t.reg 7 == 8 && t.reg 8 == 0xEE) = true := by decide

/-! ## Timers and input -/

/-- V90 to V92 -/
theorem test_timer_moves :
    gives (run 0xF507 (State.reset.setDt 0x3C)) (fun t => t.reg 5 == 0x3C) = true ∧
    gives (run 0xF515 (regs [(5, 0x3C)])) (fun t => t.dt == 0x3C) = true ∧
    gives (run 0xF018 (regs [(0, 2)])) (fun t => t.st == 2 && t.soundGate) = true := by decide

/-- The keys of a list down, the others up. -/
def keys (l : List Nat) : Vector Bool 16 := Vector.ofFn fun k => l.contains k.val

/-- V95 to V97 -/
theorem test_key_skips :
    gives (run 0xE29E ((regs [(2, 0x0A)]).setKey (keys [0xA]))) (fun t => t.pc == 0x204) = true ∧
    gives (run 0xE29E (regs [(2, 0x0A)])) (fun t => t.pc == 0x202) = true ∧
    gives (run 0xE2A1 (regs [(2, 0x0A)])) (fun t => t.pc == 0x204) = true := by decide

/-- V98, V99 -/
theorem test_key_skips_past_fifteen :
    gives (run 0xE29E (regs [(2, 0x10)])) (fun t => t.fault == some ⟨.keyOutOfRange, some 0xE29E, 0x200, 0x10⟩) = true ∧
    gives (run 0xE2A1 (regs [(2, 0xFF)])) (fun t => t.fault == some ⟨.keyOutOfRange, some 0xE2A1, 0x200, 0xFF⟩) = true := by
  decide

/-- V100 to V102 -/
theorem test_ldVxK :
    gives (run 0xF30A) (fun t => t.pc == 0x200 && t.reg 3 == 0) = true ∧
    gives (run 0xF30A (State.reset.setKey (keys [7, 3]))) (fun t => t.pc == 0x202 && t.reg 3 == 3) = true ∧
    gives (run 0xFF0A (State.reset.setKey (keys [15]))) (fun t => t.reg 15 == 15) = true := by decide

/-! ## Display, mode and exit -/

/-- V110 -/
theorem test_cls : gives (run 0x00E0 (State.reset.setFb [(0, 0), (127, 63)])) (fun t => t.fb == [] && t.draw) = true := by
  decide

/-- V112 to V114 -/
theorem test_scd :
    gives (run 0x00C3 (State.reset.setFb [(5, 0)])) (fun t => t.fb == [(5, 3)] && t.draw) = true ∧
    gives (run 0x00C3 (State.reset.setFb [(5, 62)])) (fun t => t.fb == [] && t.draw) = true ∧
    gives (run 0x00C0 (State.reset.setFb [(5, 0)])) (fun t => t.fb == [(5, 0)] && t.draw) = true := by decide

/-- V115 to V118 -/
theorem test_scroll_sideways :
    gives (run 0x00FB (State.reset.setFb [(0, 0)])) (fun t => t.fb == [(4, 0)] && t.draw) = true ∧
    gives (run 0x00FB (State.reset.setFb [(125, 9)])) (fun t => t.fb == []) = true ∧
    gives (run 0x00FC (State.reset.setFb [(4, 0)])) (fun t => t.fb == [(0, 0)] && t.draw) = true ∧
    gives (run 0x00FC (State.reset.setFb [(2, 0)])) (fun t => t.fb == []) = true := by decide

/-- V119, V120 -/
theorem test_mode :
    gives (run 0x00FF (State.reset.setFb [(100, 40)])) (fun t => t.mode == .super && t.fb == [(100, 40)] && !t.draw) = true ∧
    gives (run 0x00FE ((State.reset.setFb [(100, 40)]).setMode .super))
      (fun t => t.mode == .standard && t.fb == [(100, 40)] && !t.draw) = true := by decide

/-- S12 -/
theorem test_exit :
    gives (run 0x00FD { (bytes 0x300 [5] (regs [(0, 5)])) with mode := .super, romCache := [0x60, 0x05] })
      (fun t => t.reg 0 == 0 && t.byte 0x300 == 0 && t.byte 0x200 == 0x60 && t.byte 0x201 == 0x05 && t.byte 0x202 == 0 &&
        t.mode == .standard && t.pc == 0x200 && t.byte 0 == 0xF0) = true := by decide

/-- S9 in both modes -/
theorem test_drw_wrap :
    gives (run 0xD011 ((bytes 0x300 [0xFF] (regs [(0, 60)])).setIndex 0x300))
      (fun t => t.fb == [(0, 0), (1, 0), (2, 0), (3, 0), (60, 0), (61, 0), (62, 0), (63, 0)] && t.reg 15 == 0) = true ∧
    gives (run 0xD011 (((bytes 0x300 [0xFF] (regs [(0, 124)])).setIndex 0x300).setMode .super))
      (fun t => t.fb == [(0, 0), (1, 0), (2, 0), (3, 0), (124, 0), (125, 0), (126, 0), (127, 0)]) = true := by decide

/-- V126 with two rows written, V127 -/
theorem test_drw_wide_and_collision :
    gives (run 0xD120 (((bytes 0x300 [0x80, 0x01, 0x00, 0x80]).setIndex 0x300).setMode .super))
      (fun t => t.fb == [(0, 0), (15, 0), (8, 1)]) = true ∧
    gives (run 0xD121 (((bytes 0x300 [0xC0]).setIndex 0x300).setFb [(0, 0)]))
      (fun t => t.fb == [(1, 0)] && t.reg 15 == 1 && t.draw) = true := by decide

/-! ## Events and faults -/

/-- V93, V103, V145 -/
theorem test_events :
    gives (step { State.reset with dt := 1, schedule := .thenCycles [.tick] }) (fun t => t.dt == 0 && t.st == 0) = true ∧
    gives (step { State.reset with schedule := .thenCycles [.keySnapshot (keys [3])] }) (fun t => t.key == keys [3]) = true ∧
    gives (step { (State.reset.setFault ⟨.unknownOpcode, some 0, 0x200, 0⟩) with draw := true, schedule := .thenCycles [.drawAck] })
      (fun t => !t.draw && t.frameTaken == some ⟨.standard, []⟩) = true := by decide

/-- V140, V141, V143 -/
theorem test_fetch :
    gives (step (State.reset.setPc 0xFFF)) (fun t => t.fault == some ⟨.fetchOutOfRange, none, 0xFFF, 0xFFF⟩) = true ∧
    gives (step ((bytes 0xFFE [0x60, 1]).setPc 0xFFE)) (fun t => t.reg 0 == 1 && t.pc == 0) = true ∧
    gives (step State.reset) (fun t => t.fault == some ⟨.unknownOpcode, some 0, 0x200, 0⟩) = true := by decide

/-- V144 -/
theorem test_faulted_core_stops :
    step (State.reset.setFault ⟨.unknownOpcode, some 0, 0x200, 0⟩) = .fault (.stopped ⟨.unknownOpcode, some 0, 0x200, 0⟩) :=
  rfl

/-! ## Every premise can be met -/

theorem witness_DecodeInvertsEncode :
    (Instr.scd 15).wellFormed = true ∧ (Instr.drw 15 15 15).wellFormed = true ∧ (Instr.exit).wellFormed = true := by decide

theorem witness_EncodeInvertsDecode : decode 0xD125 = some (.drw 1 2 5) := by decide

theorem witness_WordSelectsOneRow :
    decode 0x8124 = some (.addReg 1 2) ∧
    (0x8124 : Word) &&& (opcodeRow (.addReg 0 0)).mask = (opcodeRow (.addReg 0 0)).pattern ∧
    (0x8124 : Word) &&& (opcodeRow (.addReg 1 2)).mask = (opcodeRow (.addReg 1 2)).pattern := by decide

/-- The highest address an instruction can be fetched from. -/
theorem witness_StepRunsDecodedInstruction :
    ∃ (s : State) (i : Instr), s.dueEvent = .cycle ∧ s.fault = none ∧ s.pc.toNat + 1 = 0xFFF ∧
      decode (bigEndian (s.byte s.pc.toNat) (s.byte (s.pc.toNat + 1))) = some i :=
  ⟨(bytes 0xFFE [0x60, 1]).setPc 0xFFE, .ldImm 0 1, by decide⟩

theorem witness_IllegalWordRaisesUnknownOpcode :
    ∃ (s : State) (w : Word), s.dueEvent = .cycle ∧ s.fault = none ∧ s.pc.toNat + 1 ≤ 0xFFF ∧
      w = bigEndian (s.byte s.pc.toNat) (s.byte (s.pc.toNat + 1)) ∧
      ∀ j : Instr, w &&& (opcodeRow j).mask ≠ (opcodeRow j).pattern :=
  ⟨State.reset, 0, rfl, rfl, by decide, by decide, fun j => by cases j <;> simp [opcodeRow]⟩

theorem witness_FetchPastTopFaults :
    ∃ s : State, s.dueEvent = .cycle ∧ s.fault = none ∧ 0xFFF < s.pc.toNat + 1 :=
  ⟨State.reset.setPc 0xFFF, by decide⟩

/-- Each form at the first `I` that is too high: FX33, FX55 and FX65 with `x = 15`, and DXYN in its three shapes. -/
theorem witness_AccessPastTopFaults :
    0xFFF < (State.reset.setIndex 0xFFE).i.toNat + 2 ∧
    0xFFF < (State.reset.setIndex 0xFF1).i.toNat + (15 : Reg).val ∧
    0xFFF < (State.reset.setIndex 0xFFC).i.toNat + height 5 * rowBytes (State.reset.setIndex 0xFFC).mode 5 - 1 ∧
    0xFFF < (State.reset.setIndex 0xFF1).i.toNat + height 0 * rowBytes (State.reset.setIndex 0xFF1).mode 0 - 1 ∧
    0xFFF < ((State.reset.setIndex 0xFE1).setMode .super).i.toNat +
      height 0 * rowBytes ((State.reset.setIndex 0xFE1).setMode .super).mode 0 - 1 := by decide

theorem witness_KeyNumberPastFifteenFaults : 15 < ((regs [(2, 16)]).reg 2).toNat := by decide

theorem witness_FaultsArePrecise :
    ∃ (i : Instr) (s t : State) (r : FaultRecord), exec i s = .next t ∧ s.fault = none ∧ t.fault = some r :=
  ⟨.ldB 4, State.reset.setIndex 0xFFE, _, _, rfl, rfl, rfl⟩

/-- A faulted core with each event due, and one that still takes a key snapshot. -/
theorem witness_FaultStopsTheCore :
    (∃ (s : State) (r : FaultRecord), s.fault = some r ∧ s.dueEvent = .cycle) ∧
    (∃ (s : State) (r : FaultRecord), s.fault = some r ∧ s.dueEvent = .tick) ∧
    (∃ (s : State) (r : FaultRecord), s.fault = some r ∧ s.dueEvent = .resetReq) ∧
    ∃ (s t : State) (r : FaultRecord), s.fault = some r ∧ step s = .next t :=
  ⟨⟨State.reset.setFault ⟨.unknownOpcode, some 0, 0x200, 0⟩, _, rfl, rfl⟩,
    ⟨(State.reset.setFault ⟨.unknownOpcode, some 0, 0x200, 0⟩).setSchedule (.thenCycles [.tick]), _, rfl, rfl⟩,
    ⟨(State.reset.setFault ⟨.unknownOpcode, some 0, 0x200, 0⟩).setSchedule (.thenCycles [.resetReq]), _, rfl, rfl⟩,
    ⟨(State.reset.setFault ⟨.unknownOpcode, some 0, 0x200, 0⟩).setSchedule (.thenCycles [.keySnapshot (keys [])]), _, _, rfl, rfl⟩⟩

theorem witness_TickCountsDown : ∃ s : State, s.dueEvent = .tick ∧ s.fault = none :=
  ⟨State.reset.setSchedule (.thenCycles [.tick]), rfl, rfl⟩

theorem witness_KeySnapshotReplacesKeys : ∃ (s : State) (k : Vector Bool 16), s.dueEvent = .keySnapshot k :=
  ⟨State.reset.setSchedule (.thenCycles [.keySnapshot (keys [3])]), _, rfl⟩

theorem witness_DrawAckTakesFrame :
    (∃ s : State, s.dueEvent = .drawAck ∧ s.draw = true) ∧ ∃ s : State, s.dueEvent = .drawAck ∧ s.draw = false :=
  ⟨⟨(State.reset.setSchedule (.thenCycles [.drawAck])).setDraw true, rfl, rfl⟩, ⟨State.reset.setSchedule (.thenCycles [.drawAck]), rfl, rfl⟩⟩

theorem witness_ResetRequestIsExit : ∃ s : State, s.dueEvent = .resetReq ∧ s.fault = none :=
  ⟨State.reset.setSchedule (.thenCycles [.resetReq]), rfl, rfl⟩

theorem witness_ReturnPopsPc :
    ∃ (nnn : BitVec 12) (s t r u : State), exec (.call nnn) s = .next t ∧ r.sp = t.sp ∧ r.stack = t.stack ∧
      exec .ret r = .next u :=
  ⟨0x300, State.reset, _, _, _, rfl, rfl, rfl, rfl⟩

theorem witness_StackWrapsSilently :
    (∃ as : List Word, as.length = 16) ∧ (∃ s : State, s.sp = 0) ∧ ∃ s : State, s.sp = 15 :=
  ⟨⟨List.replicate 16 0x200, by decide⟩, ⟨State.reset, rfl⟩, ⟨State.reset.setSp 15, rfl⟩⟩

/-- Each condition of the skips holds somewhere and fails somewhere. -/
theorem witness_SkipsAdvanceFourOrTwo :
    (regs [(3, 0x2A)]).reg 3 = 0x2A ∧ (regs [(3, 0x2A)]).reg 3 ≠ 0x2B ∧
    (regs [(1, 7), (2, 7)]).reg 1 = (regs [(1, 7), (2, 7)]).reg 2 ∧
    (regs [(1, 7), (2, 8)]).reg 1 ≠ (regs [(1, 7), (2, 8)]).reg 2 := by decide

/-- The carry's two sides, 255 and 256, with a destination that is not `VF`. -/
theorem witness_AddSetsCarry :
    (1 : Reg) ≠ 15 ∧
    ¬ ((regs [(1, 0x7F), (2, 0x80)]).reg 1).toNat + ((regs [(1, 0x7F), (2, 0x80)]).reg 2).toNat > 255 ∧
    ((regs [(1, 0x80), (2, 0x80)]).reg 1).toNat + ((regs [(1, 0x80), (2, 0x80)]).reg 2).toNat > 255 := by decide

/-- The borrow's two sides. -/
theorem witness_SubtractSetsNotBorrow :
    (1 : Reg) ≠ 15 ∧ ¬ ((regs [(1, 5), (2, 5)]).reg 1).toNat < ((regs [(1, 5), (2, 5)]).reg 2).toNat ∧
    ((regs [(1, 5), (2, 6)]).reg 1).toNat < ((regs [(1, 5), (2, 6)]).reg 2).toNat := by decide

theorem witness_ShiftsActInPlace :
    State.reset.params.shift = .inPlace ∧ (4 : Reg) ≠ 15 ∧ ((regs [(4, 0x81)]).reg 4).toNat % 2 = 1 ∧
    128 ≤ ((regs [(4, 0x80)]).reg 4).toNat ∧ ¬ 128 ≤ ((regs [(4, 0x7E)]).reg 4).toNat ∧
    ¬ ((regs [(4, 0x7E)]).reg 4).toNat % 2 = 1 := by decide

theorem witness_LegacyShiftsReadVy : (legacy State.reset).params.shift = .legacy ∧ (4 : Reg) ≠ 15 := by decide

/-- The index overflow's two sides, 0xFFF and 0x1000. -/
theorem witness_IndexIsSetAndAdded :
    ¬ ((regs [(2, 1)]).setIndex 0xFFE).i.toNat + (((regs [(2, 1)]).setIndex 0xFFE).reg 2).toNat > 0xFFF ∧
    ((regs [(2, 1)]).setIndex 0xFFF).i.toNat + (((regs [(2, 1)]).setIndex 0xFFF).reg 2).toNat > 0xFFF := by decide

theorem witness_BcdStoresThreeDigits : (State.reset.setIndex 0xFFD).indexed 2 = 0xFFF := by decide

theorem witness_BlockStoreWritesRegisters :
    (State.reset.setIndex 0xFF0).indexed (15 : Reg).val = 0xFFF ∧ (15 : Reg) ≤ 15 := by decide

theorem witness_BlockLoadReadsRegisters :
    (State.reset.setIndex 0xFFF).indexed (0 : Reg).val = 0xFFF ∧ (0 : Reg) ≤ 0 := by decide

theorem witness_StoreThenLoadRoundTrips :
    ∃ (x : Reg) (s t r u : State), s.indexed x.val ≤ 0xFFF ∧ exec (.storeRegs x) s = .next t ∧ r.i = t.i ∧
      (∀ a, r.byte a = t.byte a) ∧ exec (.loadRegs x) r = .next u ∧ (0 : Reg) ≤ x :=
  ⟨2, (regs [(0, 0x11), (1, 0x22), (2, 0x33)]).setIndex 0x400, _, _, _, by decide, rfl, rfl, fun _ => rfl, rfl, by decide⟩

/-- The transfers' two bounds: all eight flags, and only the first. -/
theorem witness_RplTransfersClampToSeven :
    (7 : Fin 8).val ≤ (15 : Reg).val ∧ (0 : Fin 8).val ≤ (0 : Reg).val ∧ ¬ (1 : Fin 8).val ≤ (0 : Reg).val := by decide

/-- Key 15, down and up. -/
theorem witness_KeySkipsTestTheKey :
    ((regs [(2, 15)]).reg 2).toNat = (15 : Fin 16).val ∧
    ((regs [(2, 15)]).setKey (keys [15])).keyDown 15 = true ∧ (regs [(2, 15)]).keyDown 15 = false := by decide

/-- The lowest key is 0, or 15 alone, or there is none. -/
theorem witness_WaitForKeyTakesLowestKey :
    ((State.reset.setKey (keys [0, 15])).keyDown 0 = true ∧
      ∀ j : Fin 16, j < 0 → (State.reset.setKey (keys [0, 15])).keyDown j = false) ∧
    ((State.reset.setKey (keys [15])).keyDown 15 = true ∧
      ∀ j : Fin 16, j < 15 → (State.reset.setKey (keys [15])).keyDown j = false) ∧
    ∀ k : Fin 16, State.reset.keyDown k = false := by decide

/-- The last row kept and the last row vacated of the longest scroll, on the last column. -/
theorem witness_ScrollDownMovesRows :
    (15 : Nat) < 16 ∧ 127 < State.reset.params.canvasW ∧ (63 : Nat) < 64 ∧ (15 : Nat) ≤ 15 ∧ (14 : Nat) < 15 := by decide

theorem witness_ScrollSidewaysMovesColumns :
    3 < State.reset.params.canvasW ∧ (63 : Nat) < 64 ∧ (3 : Nat) < 4 ∧ (4 : Nat) ≤ 4 ∧
    123 + 4 < State.reset.params.canvasW ∧ State.reset.params.canvasW ≤ 124 + 4 := by decide

/-- One sprite byte 0xC0 drawn at (0, 0), with the cell (0, 0) already set. -/
def drawing : State := ((bytes 0x300 [0xC0]).setIndex 0x300).setFb [(0, 0)]

/-- The highest `I` a five-row sprite can be drawn from; a sprite that hits one set cell and one unset cell. -/
theorem witness_DrawXorsSprite :
    (5 : Nat) < 16 ∧
    (State.reset.setIndex 0xFFB).i.toNat + height 5 * rowBytes (State.reset.setIndex 0xFFB).mode 5 - 1 = 0xFFF ∧
    (SpriteHits drawing 1 2 1 (0, 0) ∧ drawing.fb.lit (0, 0) = true) ∧
    (SpriteHits drawing 1 2 1 (1, 0) ∧ drawing.fb.lit (1, 0) = false) ∧
    drawing.i.toNat + height 1 * rowBytes drawing.mode 1 - 1 ≤ 0xFFF :=
  ⟨by decide, by decide, ⟨⟨0, by decide, 0, by decide, by decide, by decide⟩, by decide⟩,
    ⟨⟨0, by decide, 1, by decide, by decide, by decide⟩, by decide⟩, by decide⟩

/-- A draw that sets a cell. -/
theorem witness_DrawFlagOnUnsetToSet :
    (1 : Nat) < 16 ∧ ∃ t, exec (.drw 1 2 1) drawing = .next t ∧ ∃ c, drawing.fb.lit c = false ∧ t.fb.lit c = true :=
  ⟨by decide, _, rfl, (1, 0), by decide, by decide⟩

/-- The draw that sets no cell: an empty sprite leaves the buffer as it is. -/
theorem witness_DrawFlagOnUnsetToSet_none :
    ∃ t, exec (.drw 1 2 1) (State.reset.setIndex 0x300) = .next t ∧
      ¬ ∃ c, (State.reset.setIndex 0x300).fb.lit c = false ∧ t.fb.lit c = true :=
  ⟨(State.reset.setIndex 0x300).setPc 0x202, rfl, fun ⟨_, h1, h2⟩ => Bool.noConfusion (h1.symm.trans h2)⟩

theorem witness_DrawTwiceRestoresScreen :
    ∃ s t u : State, (1 : Nat) < 16 ∧ (1 : Reg) ≠ 15 ∧ (2 : Reg) ≠ 15 ∧
      s.i.toNat + height 1 * rowBytes s.mode 1 - 1 ≤ 0xFFF ∧ exec (.drw 1 2 1) s = .next t ∧
      exec (.drw 1 2 1) t = .next u ∧ t.reg 15 = 0 ∧ ∃ c, SpriteHits s 1 2 1 c :=
  ⟨drawing.setFb [], _, _, by decide, by decide, by decide, by decide, rfl, rfl, by decide,
    (0, 0), 0, by decide, 0, by decide, by decide, by decide⟩

theorem witness_ResetForgetsTheState :
    ∃ s r t u : State, s.romCache = r.romCache ∧ s.params = r.params ∧ exec .exit s = .next t ∧ exec .exit r = .next u ∧
      s.reg 0 ≠ r.reg 0 :=
  ⟨State.reset, regs [(0, 5)], _, _, rfl, rfl, rfl, rfl, by decide⟩

/-- The longest ROM that loads and the shortest that does not. -/
theorem witness_RomLoadBuildsCore :
    (List.replicate 3584 (0 : Byte)).length ≤ 3584 ∧ 3584 < (List.replicate 3585 (0 : Byte)).length := by
  simp only [List.length_replicate]; decide

theorem witness_StepKeepsInvariant : ∃ s t : State, Inv s ∧ step s = .next t :=
  ⟨State.reset, _, ⟨by decide, by decide, by decide, by decide, by decide, by decide, nofun,
    nofun⟩, rfl⟩

theorem witness_OnlyListedInstructionsWriteVf :
    ∃ (i : Instr) (s t : State), mayWriteVf i = false ∧ exec i s = .next t :=
  ⟨.ldImm 14 1, State.reset, _, rfl, rfl⟩

/-- An ordinary instruction, a skip, and an instruction that raises a fault. -/
theorem witness_OrdinaryInstructionsAdvanceTwo :
    (∃ (s t : State), exec (.ldImm 1 2) s = .next t ∧ s.fault = none ∧ t.fault = none ∧ setsPc (.ldImm 1 2) = false ∧
      skips (.ldImm 1 2) = false) ∧
    (∃ (s t : State), exec (.seImm 1 0) s = .next t ∧ s.fault = none ∧ t.fault = none ∧ skips (.seImm 1 0) = true) ∧
    ∃ (s t : State), exec (.ldB 1) s = .next t ∧ s.fault = none ∧ t.fault ≠ none :=
  ⟨⟨State.reset, _, rfl, rfl, rfl, rfl, rfl⟩, ⟨State.reset, _, rfl, rfl, rfl, rfl⟩,
    ⟨State.reset.setIndex 0xFFE, _, rfl, rfl, nofun⟩⟩

theorem witness_StepsKeepRomParamsAndKeys :
    ∃ s t : State, step s = .next t ∧ ∃ k, t.keyDown k ≠ s.keyDown k :=
  ⟨State.reset.setSchedule (.thenCycles [.keySnapshot (keys [3])]), _, rfl, 3, by decide⟩

/-- `DRAW` cleared by an acknowledgement, and set by a clear screen. -/
theorem witness_DrawFlagIsSticky :
    (∃ s t : State, step s = .next t ∧ s.draw = true ∧ t.draw = false) ∧
    ∃ s t : State, step s = .next t ∧ s.draw = false ∧ t.draw = true :=
  ⟨⟨(State.reset.setSchedule (.thenCycles [.drawAck])).setDraw true, _, rfl, rfl, rfl⟩,
    ⟨State.reset.withFetchWord 16 0x00E0, _, rfl, rfl, rfl⟩⟩

theorem witness_DrawFlagAndSoundTimerAreUnread :
    ∃ (i : Instr) (s t : State), exec i s = .next t :=
  ⟨.ldVxDT 1, State.reset, _, rfl⟩

/-- V146: the stored word is `6A55`. -/
theorem witness_StoredWordRunsNext :
    ∃ (s : State) (j : Instr), s.dueEvent = .cycle ∧ s.schedule.rest.due = .cycle ∧ s.fault = none ∧ s.pc.toNat + 3 ≤ 0xFFF ∧
      decode s.fetchWord = some (.storeRegs 1) ∧ s.i.toNat = s.pc.toNat + 2 ∧
      decode (bigEndian (s.reg 0) (s.reg 1)) = some j :=
  ⟨(bytes 0x202 [0xF1, 0x55] ((regs [(0, 0x6A), (1, 0x55)]).setIndex 0x204)).setPc 0x202, .ldImm 10 0x55, by decide⟩

/-- V2 -/
theorem witness_ParkedStateStays :
    ((bytes 0x234 [0x12, 0x34]).setPc 0x234).parked = true ∧
    ((bytes 0x234 [0x12, 0x34]).setPc 0x234).dueEvent = .cycle := by decide

/-- A schedule with two first events and a period of two, one with the free sequence, and a core that gets only ticks. -/
theorem witness_HostEventsComeInOrder :
    1 < (Schedule.thenCycles [.tick, .drawAck]).first.length ∧
    (Schedule.rest^[3] ⟨[.tick, .drawAck], .repeating .cycle [.tick]⟩).due = .tick ∧
    (Schedule.rest^[2] ⟨[.tick], .free 4⟩).onward = .free 5 ∧
    (∃ s t : State, step s = .next t) ∧
    ∃ s : State, s.schedule = .always .tick ∧ s.fault = none :=
  ⟨by decide, by decide, by decide, ⟨State.reset, _, rfl⟩, State.reset.setSchedule (.always .tick), rfl, rfl⟩

/-- Endless ticks, and endless key snapshots: the step leaves the schedule as it was. -/
theorem test_endless_events :
    gives (step (State.reset.setSchedule (.always .tick))) (fun t => t.schedule == .always .tick && t.fault == none) = true ∧
    gives (step (State.reset.setSchedule (.always (.keySnapshot (keys [3])))))
      (fun t => t.schedule == .always (.keySnapshot (keys [3])) && t.fault == none) = true := by decide

end Sys2Proof.Tests
end

section
/-! PROOF. Whatever the decoder answers is an instruction the encoding can hold (30_encoding.md R92, R95). -/

namespace Sys2Proof

theorem countFits_toNat (n : BitVec 4) : countFits n.toNat = true := decide_eq_true n.isLt

theorem decode0_wellFormed {w : Word} {i : Instr} (h : decode0 w = some i) : i.wellFormed = true := by
  unfold decode0 at h
  split at h
  · obtain rfl := Option.some.inj h
    exact countFits_toNat _
  · split_ifs at h <;> obtain rfl := Option.some.inj h <;> rfl

theorem decode8_wellFormed {x y : Reg} {n : BitVec 4} {i : Instr} (h : decode8 x y n = some i) :
    i.wellFormed = true := by
  unfold decode8 at h
  split at h <;> cases h <;> rfl

theorem decodeE_wellFormed {x : Reg} {kk : Byte} {i : Instr} (h : decodeE x kk = some i) : i.wellFormed = true := by
  unfold decodeE at h
  split at h <;> cases h <;> rfl

theorem decodeF_wellFormed {x : Reg} {kk : Byte} {i : Instr} (h : decodeF x kk = some i) : i.wellFormed = true := by
  unfold decodeF at h
  split at h <;> cases h <;> rfl

theorem decode_wellFormed {w : Word} {i : Instr} (h : decode w = some i) : i.wellFormed = true := by
  unfold decode at h
  split at h
  case h_1 => exact decode0_wellFormed h
  case h_9 => exact decode8_wellFormed h
  case h_15 => exact decodeE_wellFormed h
  case h_16 => exact decodeF_wellFormed h
  case h_14 => cases h; exact countFits_toNat _
  case h_6 | h_10 => split_ifs at h; cases h; rfl
  case h_17 => cases h
  all_goals cases h; rfl

end Sys2Proof
end

section
/-! PROOF. What each instruction may write: the frame of `exec`, and the rules of 10_state.md that it gives. -/

namespace Sys2Proof.Machine

/-- The parts an instruction may write, beside `pc` and `FAULT`. -/
def writes : Instr → Part → Prop
  | .scd _ | .cls | .scr | .scl => fun p => p = .draw ∨ ∃ c, p = .cell c
  | .drw _ _ _ => fun p => p = .reg vf ∨ p = .draw ∨ ∃ c, p = .cell c
  | .low | .high => fun p => p = .mode
  | .exit => fun p => p ∉ [.romCache, .params, .rngDraws, .schedule, .frameTaken, .gateSampled]
  | .call _ | .ret => fun p => p = .sp ∨ ∃ k, p = .stack k
  | .jp _ | .jpV0 _ | .seImm _ _ | .sneImm _ _ | .seReg _ _ | .sneReg _ _ | .skp _ | .sknp _ => fun _ => False
  | .ldImm x _ | .addImm x _ | .ldReg x _ | .orReg x _ | .andReg x _ | .xorReg x _ | .ldVxDT x | .ldVxK x =>
    fun p => p = .reg x
  | .addReg x _ | .sub x _ | .subn x _ | .shr x _ | .shl x _ => fun p => p = .reg x ∨ p = .reg vf
  | .rnd x _ => fun p => p = .reg x ∨ p = .rngDraws
  | .ldI _ | .ldF _ | .ldHF _ => fun p => p = .index
  | .addI _ => fun p => p = .index ∨ p = .reg vf
  | .ldDTVx _ => fun p => p = .dt
  | .ldSTVx _ => fun p => p = .st
  | .ldB _ | .storeRegs _ => fun p => ∃ a, p = .byte a
  | .loadRegs x => fun p => ∃ k ≤ x, p = .reg k
  | .storeRpl _ => fun p => ∃ k, p = .rpl k
  | .loadRpl _ => fun p => ∃ k : Fin 8, p = .reg (rplReg k)

/-- The frame of an instruction: `pc`, `FAULT`, and what else it names. -/
def frameOf (ps : Part → Prop) (p : Part) : Prop := p = .pc ∨ p = .fault ∨ ps p

/-- A key wait either stores the lowest pressed key or, with none pressed, changes nothing (R226). -/
theorem execLdVxK_eq_next {x : Reg} {s t : State} :
    execLdVxK x s = .next t ↔
      (∃ k, s.lowestKey = some k ∧ finish (s.setReg x (keyByte k)) = .next t) ∨ (s.lowestKey = none ∧ s = t) := by
  unfold execLdVxK
  cases s.lowestKey <;> simp

section
variable {ps : Part → Prop} {s t u : State}

theorem ChangesOnly.toFrame (h : ChangesOnly ps s u) : ChangesOnly (frameOf ps) s u := h.mono fun _ hp => .inr (.inr hp)

theorem ChangesOnly.setPc (h : ChangesOnly ps s u) (a : Word) : ChangesOnly (frameOf ps) s (u.setPc a) :=
  h.toFrame.trans ((u.setPc_changes a).mono fun _ hp => .inl hp)

theorem ChangesOnly.finish (h : ChangesOnly ps s u) (ht : finish u = .next t) : ChangesOnly (frameOf ps) s t :=
  finish_eq_next.1 ht ▸ h.setPc _

theorem skipIf_changes {c : Bool} (ht : skipIf c s = .next t) : ChangesOnly (frameOf ps) s t :=
  skipIf_eq_next.1 ht ▸ (ChangesOnly.refl ps s).setPc _

theorem setFault_frame (s : State) (r : FaultRecord) : ChangesOnly (frameOf ps) s (s.setFault r) :=
  (s.setFault_changes r).mono fun _ hp => .inr (.inl hp)

theorem keySkip_changes {i : Instr} {x : Reg} {d : Bool} (ht : keySkip i x d s = .next t) :
    ChangesOnly (frameOf ps) s t := by
  obtain ⟨k, -, rfl⟩ | ⟨-, rfl⟩ := keySkip_eq_next.1 ht
  · exact (ChangesOnly.refl ps s).setPc _
  · exact setFault_frame s _

theorem ChangesOnly.withinRam {i : Instr} {last : Nat} (h : ChangesOnly ps s u)
    (ht : withinRam i last s (Machine.finish u) = .next t) : ChangesOnly (frameOf ps) s t := by
  obtain ⟨-, rfl⟩ | ⟨-, hb⟩ := withinRam_eq_next.1 ht
  · exact setFault_frame s _
  · exact h.finish hb

end

theorem redraw_changes (s : State) (fb : FrameBuffer) :
    ChangesOnly (fun p => p = .draw ∨ ∃ c, p = .cell c) s ((s.setFb fb).setDraw true) :=
  ((s.setFb_changes fb).mono fun _ h => .inr h).trans ((State.setDraw_changes _ _).mono fun _ h => .inl h)

/-- Whatever the list of cells, repeated ones included, a draw changes cells, `VF` and `DRAW` alone. -/
theorem State.drawn_footprint (s : State) (b : Blit) :
    ChangesOnly (fun p => p = .reg vf ∨ p = .draw ∨ ∃ c, p = .cell c) s (s.drawn b) :=
  ((s.setFb_changes _).mono fun _ h => .inr (.inr h)).trans <|
    ((State.setReg_changes _ vf _).mono fun _ h => .inl h).trans
      ((State.setDraw_changes _ _).mono fun _ h => .inr (.inl h))

theorem storeBcd_changes (s : State) (b : Byte) : ChangesOnly (fun p => ∃ a, p = .byte a) s (storeBcd b s) :=
  have hset : ∀ (u : State) a c, ChangesOnly (fun p => ∃ a, p = .byte a) u (u.setByte a c) :=
    fun u a c => (u.setByte_changes a c).mono fun _ h => ⟨a, h⟩
  ((hset _ _ _).trans (hset _ _ _)).trans (hset _ _ _)

/-- No instruction changes a part outside its footprint. -/
theorem exec_changes {i : Instr} {s t : State} (h : exec i s = .next t) : ChangesOnly (frameOf (writes i)) s t := by
  cases i with
  | scd | cls | scr | scl => exact (redraw_changes s _).finish h
  | drw => exact (s.drawn_footprint _).withinRam h
  | low | high => exact (s.setMode_changes _).finish h
  | exit =>
    obtain rfl := Host.Outcome.next.inj h
    exact s.restart_changes.toFrame
  | jp | jpV0 =>
    obtain rfl := Host.Outcome.next.inj h
    exact (ChangesOnly.refl _ s).setPc _
  | call =>
    obtain rfl := Host.Outcome.next.inj h
    exact ((s.push_changes _).mono fun _ hp => hp.symm.imp_right fun hk => ⟨_, hk⟩).setPc _
  | ret =>
    obtain rfl := Host.Outcome.next.inj h
    exact ((s.setSp_changes _).mono fun _ hp => .inl hp).setPc _
  | seImm | sneImm | seReg | sneReg => exact skipIf_changes h
  | skp | sknp => exact keySkip_changes h
  | ldImm | addImm | ldReg | orReg | andReg | xorReg | ldVxDT => exact (s.setReg_changes _ _).finish h
  | ldVxK x =>
    obtain ⟨k, -, h⟩ | ⟨-, rfl⟩ := execLdVxK_eq_next.1 h
    · exact (s.setReg_changes _ _).finish h
    · exact ChangesOnly.refl _ _
  | addReg | sub | subn | shr | shl => exact (s.setRegFlag_changes _ _ _).finish h
  | rnd =>
    exact (((s.countDraw_changes).mono fun _ hp => .inr hp).trans
      ((State.setReg_changes _ _ _).mono fun _ hp => .inl hp)).finish h
  | ldI | ldF | ldHF => exact (s.setIndex_changes _).finish h
  | addI =>
    exact (((s.setIndex_changes _).mono fun _ hp => .inl hp).trans
      ((State.setReg_changes _ vf _).mono fun _ hp => .inr hp)).finish h
  | ldDTVx => exact (s.setDt_changes _).finish h
  | ldSTVx => exact (s.setSt_changes _).finish h
  | ldB => exact (storeBcd_changes s _).withinRam h
  | storeRegs => exact ((storeBlock_changes _ s).mono fun _ ⟨_, _, hp⟩ => ⟨_, hp⟩).withinRam h
  | loadRegs x =>
    exact ((loadBlock_changes _ s).mono fun _ ⟨k, hk, hp⟩ => ⟨k, (mem_regsUpTo x k).1 hk, hp⟩).withinRam h
  | storeRpl => exact ((saveRpl_changes _ s).mono fun _ ⟨k, _, hp⟩ => ⟨k, hp⟩).finish h
  | loadRpl => exact ((recallRpl_changes _ s).mono fun _ ⟨k, _, hp⟩ => ⟨k, hp⟩).finish h

end Sys2Proof.Machine
end

section
/-! PROOF. The rules of 10_state.md about what is left unchanged: `VF` (R39), ROM, parameters and keys (R34, R37, R41), and
the draw flag (R36). -/

namespace Sys2Proof.Machine

open Sys2Proof.Claims

/-- The footprints that hold `VF` are those of the instructions R39 lists. -/
theorem mayWriteVf_of_writes {i : Instr} (h : writes i (.reg vf)) : mayWriteVf i = true := by
  cases i with
  | addReg | sub | subn | shr | shl | addI | drw | exit => rfl
  | ldImm x | addImm x | ldReg x | orReg x | andReg x | xorReg x | ldVxDT x | ldVxK x =>
    exact beq_iff_eq.2 (Part.reg.inj h).symm
  | rnd x => exact beq_iff_eq.2 (Part.reg.inj (h.resolve_right nofun)).symm
  | loadRegs x =>
    obtain ⟨k, hk, hp⟩ := h
    obtain rfl := Part.reg.inj hp
    exact beq_iff_eq.2 (Fin.le_antisymm (Fin.le_last x) hk)
  | loadRpl =>
    obtain ⟨k, hp⟩ := h
    have : (15 : Nat) = k.val := congrArg Fin.val (Part.reg.inj hp)
    omega
  | _ => simp [writes] at h

/-- The footprints that hold `DRAW` are those of the instructions R36 lists, and of EXIT. -/
theorem mayDraw_of_writes {i : Instr} (h : writes i .draw) (he : i ≠ .exit) : mayDraw i = true := by
  cases i with
  | cls | scd | scr | scl | drw => rfl
  | exit => exact absurd rfl he
  | _ => simp [writes] at h

/-- Only EXIT writes a key, the ROM cache or a parameter. -/
theorem not_writes_rom_params_key {i : Instr} (he : i ≠ .exit) :
    ¬ writes i .romCache ∧ ¬ writes i .params ∧ ∀ k, ¬ writes i (.key k) := by
  cases i with
  | exit => exact absurd rfl he
  | _ => simp [writes]

theorem exec_same {i : Instr} {s t : State} {p : Part} (h : exec i s = .next t) (hpc : p ≠ .pc) (hf : p ≠ .fault)
    (hw : ¬ writes i p) : p.same s t :=
  exec_changes h p fun hp => hp.elim hpc fun hp => hp.elim hf hw

/-! ## The frame of a step -/

/-- The parts an event may write; `w` is the word at `pc`, which a `Cycle` decodes. -/
def eventWrites (w : Word) : Event → Part → Prop
  | .cycle => fun p => p = .fault ∨ ∃ i, decode w = some i ∧ frameOf (writes i) p
  | .tick => fun p => p = .dt ∨ p = .st ∨ p = .gateSampled
  | .keySnapshot _ => fun p => ∃ k, p = .key k
  | .drawAck => fun p => p = .frameTaken ∨ p = .draw
  | .resetReq => writes .exit

/-- A cycle either raises a fault or executes the decoded instruction (R273, R274). -/
theorem cycle_changes {s t : State} (h : cycle s = .next t) : ChangesOnly (eventWrites s.fetchWord .cycle) s t := by
  obtain ⟨-, rfl⟩ | ⟨-, ⟨i, hd, hx⟩ | ⟨-, rfl⟩⟩ := cycle_eq_next.1 h
  · exact (s.setFault_changes _).mono fun _ hp => .inl hp
  · exact (exec_changes hx).mono fun _ hp => .inr ⟨i, hd, hp⟩
  · exact (s.setFault_changes _).mono fun _ hp => .inl hp

theorem tick_changes (s : State) : ChangesOnly (fun p => p = .dt ∨ p = .st ∨ p = .gateSampled) s (tick s) :=
  ((s.setDt_changes _).mono fun _ h => .inl h).trans <|
    ((State.setSt_changes _ _).mono fun _ h => .inr (.inl h)).trans
      ((State.setGate_changes _ _).mono fun _ h => .inr (.inr h))

theorem drawAck_changes (s : State) : ChangesOnly (fun p => p = .frameTaken ∨ p = .draw) s (drawAck s) :=
  ((s.setFrame_changes _).mono fun _ h => .inl h).trans ((State.setDraw_changes _ _).mono fun _ h => .inr h)

/-- A step changes the schedule and what the event due writes, and nothing else. -/
theorem step_changes {s t : State} (h : step s = .next t) :
    ChangesOnly (fun p => p = .schedule ∨ eventWrites s.fetchWord s.dueEvent p) s t := by
  refine (s.takeEvent_changes.mono fun _ hp => .inl hp).trans (ChangesOnly.mono ?_ fun _ hp => .inr hp)
  obtain ⟨he, -, h⟩ | ⟨he, -, rfl⟩ | ⟨k, he, rfl⟩ | ⟨he, -, rfl⟩ | ⟨he, -, rfl⟩ := step_eq_next.1 h <;> rw [he]
  · exact cycle_changes h
  · exact tick_changes _
  · exact State.setKey_changes _ k
  · exact drawAck_changes _
  · exact State.restart_changes _

theorem eventWrites_of_step {s t : State} {p : Part} (h : step s = .next t) (hs : p ≠ .schedule) (hp : ¬ p.same s t) :
    eventWrites s.fetchWord s.dueEvent p := by
  by_contra hw
  exact hp (step_changes h p fun h => h.elim hs hw)

/-! ## ROM, parameters and keys -/

/-- A cycle writes the ROM cache, a parameter or a key only by EXIT, which keeps the first two. -/
theorem exit_of_cycle_writes {w : Word} {p : Part} (h : eventWrites w .cycle p)
    (hp : p = .romCache ∨ p = .params ∨ ∃ k, p = .key k) : decode w = some .exit ∧ writes .exit p := by
  obtain rfl | ⟨i, hd, rfl | rfl | hw⟩ := h
  · simp at hp
  · simp at hp
  · simp at hp
  · by_cases he : i = .exit
    · subst he; exact ⟨hd, hw⟩
    · obtain ⟨hr, hq, hk⟩ := not_writes_rom_params_key he
      obtain rfl | rfl | ⟨k, rfl⟩ := hp
      · exact absurd hw hr
      · exact absurd hw hq
      · exact absurd hw (hk k)

theorem not_eventWrites_romCache (w : Word) (e : Event) : ¬ eventWrites w e .romCache := by
  intro h
  cases e with
  | cycle => simpa [writes] using (exit_of_cycle_writes h (.inl rfl)).2
  | _ => simp [eventWrites, writes] at h

theorem not_eventWrites_params (w : Word) (e : Event) : ¬ eventWrites w e .params := by
  intro h
  cases e with
  | cycle => simpa [writes] using (exit_of_cycle_writes h (.inr (.inl rfl))).2
  | _ => simp [eventWrites, writes] at h

theorem event_of_writes_key {w : Word} {e : Event} {k : Fin 16} (h : eventWrites w e (.key k)) :
    (∃ ks, e = .keySnapshot ks) ∨ e = .resetReq ∨ (e = .cycle ∧ decode w = some .exit) := by
  cases e with
  | cycle => exact .inr (.inr ⟨rfl, (exit_of_cycle_writes h (.inr (.inr ⟨k, rfl⟩))).1⟩)
  | keySnapshot ks => exact .inl ⟨ks, rfl⟩
  | resetReq => exact .inr (.inl rfl)
  | tick | drawAck => simp [eventWrites] at h

/-! ## The draw flag -/

/-- The draw instructions never clear `DRAW`, also where the draw itself faults. -/
theorem exec_keeps_draw_set {i : Instr} {s t : State} (hi : mayDraw i = true) (hs : s.draw = true)
    (h : exec i s = .next t) : t.draw = true := by
  cases i with
  | cls | scd | scr | scl =>
    obtain rfl := redraw_eq_next.1 h
    rfl
  | drw x y n =>
    obtain ⟨-, rfl⟩ | ⟨-, hb⟩ := withinRam_eq_next.1 h
    · exact hs
    · obtain rfl := finish_eq_next.1 hb
      simp [State.drawn, hs]
  | _ => cases hi

/-- Every event that writes `DRAW`: a draw instruction or EXIT in a cycle, the acknowledgement, a reset. -/
theorem event_of_writes_draw {w : Word} {e : Event} (h : eventWrites w e .draw) :
    (e = .cycle ∧ decode w = some .exit) ∨ (e = .cycle ∧ ∃ i, decode w = some i ∧ mayDraw i = true) ∨
      e = .drawAck ∨ e = .resetReq := by
  cases e with
  | cycle =>
    obtain h | ⟨i, hd, h | h | hw⟩ := h
    · cases h
    · cases h
    · cases h
    · by_cases he : i = .exit
      · exact .inl ⟨rfl, he ▸ hd⟩
      · exact .inr (.inl ⟨rfl, i, hd, mayDraw_of_writes hw he⟩)
  | drawAck => exact .inr (.inr (.inl rfl))
  | resetReq => exact .inr (.inr (.inr rfl))
  | tick | keySnapshot => simp [eventWrites] at h

/-- With a word at `pc` that decodes, a cycle executes its instruction or, at the end of RAM, raises a fault (R274). -/
theorem step_cycle_of_decode {s t : State} {i : Instr} (h : step s = .next t) (he : s.dueEvent = .cycle)
    (hd : decode s.fetchWord = some i) :
    exec i s.takeEvent = .next t ∨ ∃ r, s.takeEvent.setFault r = t := by
  have hd' : decode s.takeEvent.fetchWord = some i := hd
  obtain ⟨-, hc⟩ : s.fault = none ∧ cycle s.takeEvent = .next t := by simpa [he] using step_eq_next.1 h
  obtain ⟨-, rfl⟩ | ⟨-, ⟨j, hj, hx⟩ | ⟨hn, -⟩⟩ := cycle_eq_next.1 hc
  · exact .inr ⟨_, rfl⟩
  · rw [hd'] at hj; cases hj
    exact .inl hx
  · rw [hd'] at hn; cases hn

end Sys2Proof.Machine

namespace Sys2Proof.Proofs

open Sys2Proof.Machine Sys2Proof.Claims

/-- Settles O53, by the footprint of each instruction. -/
theorem onlyListedInstructionsWriteVf : Obligations.OnlyListedInstructionsWriteVf := by
  intro i s t hi h
  have hw : ¬ writes i (.reg vf) := fun hw => by simp [mayWriteVf_of_writes hw] at hi
  exact exec_same (p := .reg vf) h nofun nofun hw

/-- Settles O55, by the footprint of each event. -/
theorem stepsKeepRomParamsAndKeys : Obligations.StepsKeepRomParamsAndKeys := by
  intro s t h
  refine ⟨?_, ?_, fun ⟨k, hk⟩ => event_of_writes_key (eventWrites_of_step (p := .key k) h nofun hk)⟩
  · by_contra hp
    exact not_eventWrites_romCache _ _ (eventWrites_of_step (p := .romCache) h nofun hp)
  · by_contra hp
    exact not_eventWrites_params _ _ (eventWrites_of_step (p := .params) h nofun hp)

/-- Settles O56: of the events that write `DRAW`, each only sets or only clears it. -/
theorem drawFlagIsSticky : Obligations.DrawFlagIsSticky := by
  intro s t h
  have hev (hne : t.draw ≠ s.draw) := event_of_writes_draw (eventWrites_of_step (p := .draw) h nofun hne)
  constructor
  · intro hs ht
    obtain hx | ⟨he, i, hd, hm⟩ | he | he := hev (by simp [hs, ht])
    · exact .inr (.inr hx)
    · have hs' : s.takeEvent.draw = true := hs
      obtain hx | ⟨r, rfl⟩ := step_cycle_of_decode h he hd
      · rw [exec_keeps_draw_set hm hs' hx] at ht; cases ht
      · exact absurd (hs'.symm.trans ht) nofun
    · exact .inl he
    · exact .inr (.inl he)
  · intro hs ht
    obtain ⟨he, hd⟩ | hx | he | he := hev (by simp [hs, ht])
    · obtain hx | ⟨r, rfl⟩ := step_cycle_of_decode h he hd
      · obtain rfl := Host.Outcome.next.inj hx
        cases ht
      · exact absurd (hs.symm.trans ht) nofun
    · exact hx
    · have : drawAck s.takeEvent = t := by simpa [he, hs] using step_eq_next.1 h
      subst this; cases ht
    · have : s.fault = none ∧ s.takeEvent.restart = t := by simpa [he] using step_eq_next.1 h
      obtain ⟨-, rfl⟩ := this
      cases ht

end Sys2Proof.Proofs
end

section
/-! PROOF. The invariant of the core (10_state.md, the table at its head): one lemma per write, then every instruction,
every event, every step, and the reset. -/

namespace Sys2Proof.Machine

/-! ## The invariant through each write -/

section
variable {s : State}

theorem Inv.setReg (h : Inv s) (x : Reg) (b : Byte) : Inv (s.setReg x b) := { h with }

theorem Inv.setIndex (h : Inv s) {a : Word} (ha : a.toNat ≤ 0xFFF) : Inv (s.setIndex a) := { h with index := ha }

/-- A fault record names the pc of the core (R276), so `pc` may move only while there is none. -/
theorem Inv.setPc (h : Inv s) (hf : s.fault = none) {a : Word} (ha : a.toNat ≤ 0xFFF) : Inv (s.setPc a) :=
  { h with
    pc := ha
    fault := fun _ hr => nomatch hf.symm.trans hr }

theorem Inv.push (h : Inv s) {a : Word} (ha : a.toNat ≤ 0xFFF) : Inv (s.push a) :=
  { h with
    stack := fun k => by
      rw [State.stack_push]
      split
      · exact ha
      · exact h.stack k }

theorem Inv.popped (h : Inv s) : Inv s.popped := { h with }

theorem Inv.setDt (h : Inv s) (b : Byte) : Inv (s.setDt b) := { h with }

theorem Inv.setSt (h : Inv s) (b : Byte) : Inv (s.setSt b) := { h with }

theorem Inv.setFb (h : Inv s) {fb : FrameBuffer} (hfb : fb.wf s.params.canvasW = true) : Inv (s.setFb fb) :=
  { h with fb := hfb }

theorem Inv.setMode (h : Inv s) (m : Mode) : Inv (s.setMode m) := { h with }

theorem Inv.setKey (h : Inv s) (k : Vector Bool 16) : Inv (s.setKey k) := { h with }

theorem Inv.setDraw (h : Inv s) (b : Bool) : Inv (s.setDraw b) := { h with }

theorem Inv.setFault (h : Inv s) {r : FaultRecord} (hr : r.legal s.pc) : Inv (s.setFault r) :=
  { h with fault := fun _ hr' => Option.some.inj hr' ▸ hr }

theorem Inv.setByte (h : Inv s) {a : Nat} (ha : a ≤ 0xFFF) (b : Byte) : Inv (s.setByte a b) :=
  { h with mem := Memory.wf_write h.mem (Nat.lt_succ_of_le ha) b }

theorem Inv.countDraw (h : Inv s) : Inv s.countDraw := { h with }

theorem Inv.takeEvent (h : Inv s) : Inv s.takeEvent := { h with }

theorem Inv.tick (h : Inv s) : Inv (tick s) := { h with }

/-- The host takes the frame of the core, which is in its canonical form (R281). -/
theorem Inv.drawAck (h : Inv s) : Inv (drawAck s) :=
  { h with frame := fun _ hf => Option.some.inj hf ▸ h.fb }

/-- The reset rebuilds RAM from a ROM that fits (R63, R300). -/
theorem Inv.restart (h : Inv s) : Inv s.restart where
  index := Nat.zero_le _
  pc := (by decide : (0x200 : Word).toNat ≤ 0xFFF)
  stack k := by simp
  rom := h.rom
  mem := romCells_wf s.params h.rom
  fb := FrameBuffer.wf_nil _
  fault := nofun
  frame := h.frame

end

/-! ## The invariant through the shared operations -/

section
variable {s t u : State} (h : Inv s)
include h

theorem Inv.advance (hf : s.fault = none) (k : Word) : Inv (s.advance k) := h.setPc hf (mask12_le _)

theorem Inv.finish (ht : Machine.finish s = .next t) (hf : s.fault = none) : Inv t :=
  finish_eq_next.1 ht ▸ h.advance hf _

theorem Inv.skipIf {c : Bool} (hf : s.fault = none) (ht : Machine.skipIf c s = .next t) : Inv t :=
  skipIf_eq_next.1 ht ▸ h.advance hf _

theorem Inv.redraw {fb : FrameBuffer} (hf : s.fault = none) (hfb : fb.wf s.params.canvasW = true)
    (ht : Machine.redraw fb s = .next t) : Inv t := ((h.setFb hfb).setDraw true).finish ht hf

/-- `MemOutOfRange` and `KeyOutOfRange` name the word of a well-formed instruction (R271). -/
theorem Inv.withinRam {i : Instr} {last : Nat} {body : Result} (hi : i.wellFormed = true)
    (ht : Machine.withinRam i last s body = .next t) (hb : last ≤ 0xFFF → body = .next t → Inv t) : Inv t := by
  obtain ⟨-, rfl⟩ | ⟨hl, ht⟩ := withinRam_eq_next.1 ht
  · exact h.setFault ⟨rfl, ⟨i, hi, rfl⟩, rfl⟩
  · exact hb hl ht

theorem Inv.keySkip {i : Instr} {x : Reg} {d : Bool} (hi : i.wellFormed = true) (hf : s.fault = none)
    (ht : Machine.keySkip i x d s = .next t) : Inv t := by
  obtain ⟨k, -, rfl⟩ | ⟨hx, rfl⟩ := keySkip_eq_next.1 ht
  · exact h.advance hf _
  · refine h.setFault ⟨rfl, ⟨i, hi, rfl⟩, ?_, ?_⟩
    · rwa [wide_toNat]
    · rw [wide_toNat]; exact (s.reg x).isLt

theorem Inv.storeBcd (b : Byte) (hl : s.indexed 2 ≤ 0xFFF) : Inv (Machine.storeBcd b s) := by
  have h0 : s.indexed 0 ≤ 0xFFF := Nat.le_trans (Nat.add_le_add_left (by decide) _) hl
  have h1 : s.indexed 1 ≤ 0xFFF := Nat.le_trans (Nat.add_le_add_left (by decide) _) hl
  exact ((h.setByte h0 _).setByte h1 _).setByte hl _

theorem Inv.drawn (cx cy : Byte) (n : Nat) : Inv (s.drawn (blit s.fb (s.spriteCells cx cy n))) := by
  refine ((h.setFb (blit_wf h.fb fun c hc => ?_)).setReg vf _).setDraw _
  obtain ⟨h1, h2⟩ := s.spriteCells_inside hc
  exact ⟨h1.trans_le s.wMode_bounds.2, h2.trans_le s.hMode_bounds.2⟩

end

theorem Inv.storeBlock {ks : List Reg} {s : State} (h : Inv s) (hl : ∀ k ∈ ks, s.indexed k.val ≤ 0xFFF) :
    Inv (storeBlock ks s) := by
  induction ks generalizing s with
  | nil => exact h
  | cons k ks ih => exact ih (h.setByte (hl k (by simp)) _) fun j hj => hl j (by simp [hj])

/-- A block load changes the registers alone, of which the invariant says nothing. -/
theorem Inv.loadBlock {s : State} (h : Inv s) (ks : List Reg) : Inv (loadBlock ks s) := by
  rw [loadBlock_eq]; exact { h with }

theorem Inv.saveRpl {s : State} (h : Inv s) (ks : List (Fin 8)) : Inv (saveRpl ks s) := by
  rw [saveRpl_eq]; exact { h with }

theorem Inv.recallRpl {s : State} (h : Inv s) (ks : List (Fin 8)) : Inv (recallRpl ks s) := by
  rw [recallRpl_eq]; exact { h with }

/-! ## Addresses -/

theorem address_le (nnn : BitVec 12) : (address nnn).toNat ≤ 0xFFF := by
  rw [address_toNat]; omega

theorem glyphNumber_lt (x : Reg) (s : State) : glyphNumber x s < 256 := BitVec.isLt _

/-- No glyph address leaves the 12-bit range, whatever the digit (R192, R193). -/
theorem glyphAddress_le {base stride g : Nat} (h : base + stride * 255 ≤ 0xFFF) (hg : g < 256) :
    (BitVec.ofNat 16 (base + stride * g)).toNat ≤ 0xFFF := by
  have : stride * g ≤ stride * 255 := Nat.mul_le_mul_left _ (by omega)
  rw [BitVec.toNat_ofNat]
  omega

/-! ## Every instruction, event and step -/

theorem exec_keeps_inv {i : Instr} {s t : State} (hi : i.wellFormed = true) (hs : Inv s) (hf : s.fault = none)
    (h : exec i s = .next t) : Inv t := by
  cases i with
  | cls => exact hs.redraw hf (FrameBuffer.wf_nil _) h
  | scd n => exact hs.redraw hf (FrameBuffer.wf_down hs.fb n) h
  | scr => exact hs.redraw hf (FrameBuffer.wf_right hs.fb 4) h
  | scl => exact hs.redraw hf (FrameBuffer.wf_left hs.fb 4) h
  | drw x y n => exact hs.withinRam hi h fun _ hb => (hs.drawn _ _ n).finish hb hf
  | low | high => exact (hs.setMode _).finish h hf
  | exit =>
    obtain rfl := Host.Outcome.next.inj h
    exact hs.restart
  | jp nnn =>
    obtain rfl := Host.Outcome.next.inj h
    exact hs.setPc hf (address_le nnn)
  | jpV0 =>
    obtain rfl := Host.Outcome.next.inj h
    exact hs.setPc hf (mask12_le _)
  | call nnn =>
    obtain rfl := Host.Outcome.next.inj h
    exact (hs.push hs.pc).setPc hf (address_le nnn)
  | ret =>
    obtain rfl := Host.Outcome.next.inj h
    exact hs.popped.setPc hf (mask12_le _)
  | seImm | sneImm | seReg | sneReg => exact hs.skipIf hf h
  | skp | sknp => exact hs.keySkip hi hf h
  | ldImm | addImm | ldReg | orReg | andReg | xorReg | ldVxDT => exact (hs.setReg _ _).finish h hf
  | ldVxK =>
    obtain ⟨k, -, h⟩ | ⟨-, rfl⟩ := execLdVxK_eq_next.1 h
    · exact (hs.setReg _ _).finish h hf
    · exact hs
  | addReg | sub | subn | shr | shl => exact ((hs.setReg _ _).setReg vf _).finish h hf
  | rnd => exact (hs.countDraw.setReg _ _).finish h hf
  | ldI nnn => exact (hs.setIndex (address_le nnn)).finish h hf
  | ldF x => exact (hs.setIndex (glyphAddress_le (by decide) (glyphNumber_lt x s))).finish h hf
  | ldHF x => exact (hs.setIndex (glyphAddress_le (by decide) (glyphNumber_lt x s))).finish h hf
  | addI => exact ((hs.setIndex (mask12_le _)).setReg vf _).finish h hf
  | ldDTVx => exact (hs.setDt _).finish h hf
  | ldSTVx => exact (hs.setSt _).finish h hf
  | ldB x => exact hs.withinRam hi h fun hl hb => (hs.storeBcd _ hl).finish hb hf
  | storeRegs x =>
    refine hs.withinRam hi h fun hl hb => (hs.storeBlock fun k hk => ?_).finish hb ?_
    · have hk' : k.val ≤ x.val := (mem_regsUpTo x k).1 hk
      exact Nat.le_trans (Nat.add_le_add_left hk' _) hl
    · rw [storeBlock_eq]; exact hf
  | loadRegs =>
    refine hs.withinRam hi h fun _ hb => (hs.loadBlock _).finish hb ?_
    rw [loadBlock_eq]; exact hf
  | storeRpl =>
    refine (hs.saveRpl _).finish h ?_
    rw [saveRpl_eq]; exact hf
  | loadRpl =>
    refine (hs.recallRpl _).finish h ?_
    rw [recallRpl_eq]; exact hf

theorem cycle_keeps_inv {s t : State} (hs : Inv s) (hf : s.fault = none) (h : cycle s = .next t) : Inv t := by
  obtain ⟨hp, rfl⟩ | ⟨-, ⟨i, hd, hx⟩ | ⟨hd, rfl⟩⟩ := cycle_eq_next.1 h
  · have hpc : s.pc = 0xFFF := BitVec.eq_of_toNat_eq (Nat.le_antisymm hs.pc (Nat.le_of_lt_succ hp))
    exact hs.setFault ⟨rfl, rfl, hpc, rfl⟩
  · exact exec_keeps_inv (decode_wellFormed hd) hs hf hx
  · exact hs.setFault ⟨rfl, rfl, hd⟩

theorem step_keeps_inv {s t : State} (hs : Inv s) (h : step s = .next t) : Inv t := by
  obtain ⟨-, hf, hc⟩ | ⟨-, -, rfl⟩ | ⟨k, -, rfl⟩ | ⟨-, -, rfl⟩ | ⟨-, -, rfl⟩ := step_eq_next.1 h
  · exact cycle_keeps_inv hs.takeEvent hf hc
  · exact hs.takeEvent.tick
  · exact hs.takeEvent.setKey k
  · exact hs.takeEvent.drawAck
  · exact hs.takeEvent.restart

/-! ## The reset state -/

theorem inv_reset : Inv State.reset where
  index := by decide
  pc := by decide
  stack k := by simp [State.reset]
  rom := by decide
  mem := Memory.wf_nil _
  fb := FrameBuffer.wf_nil _
  fault := nofun
  frame := nofun

/-- The two fonts and the zeros after them, with the fixed sizes put in (R63, R64). -/
theorem unlistedByte_eq (p : Params) (a : Nat) :
    unlistedByte p a = if h : a < 80 then p.fontLo[a] else if a < 240 then Config.fontHiByte (a - 80) else 0 := by
  simp only [unlistedByte, Config.fontLoBase, Config.fontHiBase, Config.fontHiStride, Config.fontHiCount]
  by_cases h : a < 80
  · simp [h]
  · simp [h, show 80 ≤ a by omega]

open Sys2Proof.Claims in
/-- RAM after a load, read at any address, is what R63 says it is. -/
theorem romCells_read_firstByte (p : Params) (rom : List Byte) (a : Nat) :
    (romCells p rom).read p a = firstByte p rom a := by
  rw [romCells_read, firstByte, Config.programStart, ← unlistedByte_eq, List.getD_eq_getElem?_getD]
  by_cases ha : 0x200 ≤ a
  · by_cases hr : a - 0x200 < rom.length
    · simp [ha, hr]
    · simp [ha, hr]
  · simp [ha]

open Sys2Proof.Claims in
/-- The reset state is the state of first load with an empty ROM (R42, R63, log 12). -/
theorem firstLoad_reset : FirstLoad [] State.reset := by
  refine ⟨fun x => ?_, rfl, rfl, fun k => ?_, rfl, rfl, rfl, fun _ => rfl, rfl, fun k => ?_, fun k => ?_, rfl, rfl, rfl,
    fun a _ => romCells_read_firstByte _ [] a⟩
  · exact Vector.getElem_replicate x.isLt
  · exact Vector.getElem_replicate k.isLt
  · exact Vector.getElem_replicate k.isLt
  · exact Vector.getElem_replicate k.isLt

end Sys2Proof.Machine

namespace Sys2Proof.Proofs

open Sys2Proof.Machine Sys2Proof.Claims

/-- Settles O52: each event keeps the invariant, and a cycle runs a well-formed instruction on a core with no fault. -/
theorem stepKeepsInvariant : Obligations.StepKeepsInvariant := fun _ _ => step_keeps_inv

/-- Settles O51. -/
theorem resetHoldsInvariant : Obligations.ResetHoldsInvariant := ⟨firstLoad_reset, inv_reset⟩

end Sys2Proof.Proofs
end

section
/-! PROOF. How each instruction ends (10_state.md R25): by a fault, by `advance(2)`, as a skip, or by setting `pc`. -/

namespace Sys2Proof.Machine

open Sys2Proof.Claims

/-- How an instruction leaves `pc` and `FAULT`, on a core with no fault before it. -/
inductive Ending (i : Instr) (s t : State) : Prop
  | faulted (hf : t.fault ≠ none) (hpc : t.pc = s.pc)
  | advanced (hf : t.fault = none) (hpc : Advanced 2 s t)
  | skipped (hi : skips i = true) (hf : t.fault = none) (hpc : Advanced 2 s t ∨ Advanced 4 s t)
  | jumped (hi : setsPc i = true) (hf : t.fault = none)

/-- R25 lists no skip among the instructions that set `pc`. -/
theorem skips_of_setsPc {i : Instr} (h : setsPc i = true) : skips i = false := by
  cases i with
  | jp | jpV0 | call | ret | exit | ldVxK => rfl
  | _ => cases h

theorem State.advance_two (s : State) : Advanced 2 s (s.advance 2) := s.advance_pc_toNat 2

theorem State.advance_four (s : State) : Advanced 4 s (s.advance 4) := s.advance_pc_toNat 4

theorem State.advance_skip (s : State) (c : Bool) :
    Advanced 2 s (s.advance (if c then 4 else 2)) ∨ Advanced 4 s (s.advance (if c then 4 else 2)) := by
  cases c
  · exact .inl s.advance_two
  · exact .inr s.advance_four

section
variable {i : Instr} {s t u : State}

theorem Ending.setFault (r : FaultRecord) : Ending i s (s.setFault r) := .faulted nofun rfl

theorem Ending.finish (ht : Machine.finish u = .next t) (hpc : u.pc = s.pc) (hf : u.fault = none) : Ending i s t := by
  obtain rfl := finish_eq_next.1 ht
  refine .advanced hf ?_
  rw [Advanced, ← hpc]
  exact u.advance_two

theorem Ending.skipIf {c : Bool} (ht : Machine.skipIf c s = .next t) (hi : skips i = true) (hf : s.fault = none) :
    Ending i s t := by
  obtain rfl := skipIf_eq_next.1 ht
  exact .skipped hi hf (s.advance_skip c)

theorem Ending.keySkip {j : Instr} {x : Reg} {d : Bool} (ht : Machine.keySkip j x d s = .next t) (hi : skips i = true)
    (hf : s.fault = none) : Ending i s t := by
  obtain ⟨k, -, rfl⟩ | ⟨-, rfl⟩ := keySkip_eq_next.1 ht
  · exact .skipped hi hf (s.advance_skip _)
  · exact .setFault _

theorem Ending.withinRam {j : Instr} {last : Nat} (ht : Machine.withinRam j last s (Machine.finish u) = .next t)
    (hpc : u.pc = s.pc) (hf : u.fault = none) : Ending i s t := by
  obtain ⟨-, rfl⟩ | ⟨-, hb⟩ := withinRam_eq_next.1 ht
  · exact .setFault _
  · exact .finish hb hpc hf

end

/-- A frame that names neither `pc` nor `FAULT` keeps both. -/
theorem ChangesOnly.pc_fault {ps : Part → Prop} {s t : State} (h : ChangesOnly ps s t) (hpc : ¬ ps .pc)
    (hf : ¬ ps .fault) : t.pc = s.pc ∧ t.fault = s.fault := ⟨h .pc hpc, h .fault hf⟩

theorem exec_ending {i : Instr} {s t : State} (hf : s.fault = none) (h : exec i s = .next t) : Ending i s t := by
  cases i with
  | jp | jpV0 | call | ret =>
    obtain rfl := Host.Outcome.next.inj h
    exact .jumped rfl hf
  | exit =>
    obtain rfl := Host.Outcome.next.inj h
    exact .jumped rfl rfl
  | ldVxK =>
    obtain ⟨k, -, h⟩ | ⟨-, rfl⟩ := execLdVxK_eq_next.1 h
    · exact .finish h rfl hf
    · exact .jumped rfl hf
  | seImm | sneImm | seReg | sneReg => exact .skipIf h rfl hf
  | skp | sknp => exact .keySkip h rfl hf
  | drw | ldB => exact .withinRam h rfl hf
  | storeRegs =>
    obtain ⟨hpc, hf'⟩ := (storeBlock_changes _ s).pc_fault (by simp) (by simp)
    exact .withinRam h hpc (hf'.trans hf)
  | loadRegs =>
    obtain ⟨hpc, hf'⟩ := (loadBlock_changes _ s).pc_fault (by simp) (by simp)
    exact .withinRam h hpc (hf'.trans hf)
  | storeRpl =>
    obtain ⟨hpc, hf'⟩ := (saveRpl_changes _ s).pc_fault (by simp) (by simp)
    exact .finish h hpc (hf'.trans hf)
  | loadRpl =>
    obtain ⟨hpc, hf'⟩ := (recallRpl_changes _ s).pc_fault (by simp) (by simp)
    exact .finish h hpc (hf'.trans hf)
  | _ => exact .finish h rfl hf

end Sys2Proof.Machine

namespace Sys2Proof.Proofs

open Sys2Proof.Machine Sys2Proof.Claims

/-- Settles O54, by how each instruction ends. -/
theorem ordinaryInstructionsAdvanceTwo : Obligations.OrdinaryInstructionsAdvanceTwo := by
  intro i s t h hs
  cases exec_ending hs h with
  | faulted hf hpc => exact ⟨fun hn => absurd hn hf, fun hn => absurd hn hf, fun _ => hpc⟩
  | advanced hf hpc => exact ⟨fun _ _ _ => hpc, fun _ _ => .inl hpc, fun hn => absurd hf hn⟩
  | skipped hi hf hpc => exact ⟨fun _ _ hn => by simp [hi] at hn, fun _ _ => hpc, fun hn => absurd hf hn⟩
  | jumped hi hf =>
    refine ⟨fun _ hn => by simp [hi] at hn, fun _ hk => ?_, fun hn => absurd hf hn⟩
    simp [skips_of_setsPc hi] at hk

end Sys2Proof.Proofs
end

section
/-! PROOF. No instruction reads `DRAW` (10_state.md R36) or `ST` (R31): run from a state that differs in these two alone, it
leaves a state that differs in these two alone. -/

namespace Sys2Proof.Machine

/-- The state with other values of `DRAW` and `ST`. -/
def State.withUnread (s : State) (b : Bool) (c : Byte) : State := { s with draw := b, st := c }

/-- The second answer is a next state wherever the first is one, and the two differ at most in `DRAW` and `ST`. -/
def AgreesUpToUnread (r r' : Result) : Prop := ∀ t, r = .next t → ∃ b c, r' = .next (t.withUnread b c)

namespace AgreesUpToUnread

theorem next (u : State) (b : Bool) (c : Byte) : AgreesUpToUnread (.next u) (.next (u.withUnread b c)) :=
  fun _ h => ⟨b, c, Host.Outcome.next.inj h ▸ rfl⟩

theorem finish (u : State) (b : Bool) (c : Byte) :
    AgreesUpToUnread (Machine.finish u) (Machine.finish (u.withUnread b c)) := next (u.advance 2) b c

theorem skipIf (k : Bool) (s : State) (b : Bool) (c : Byte) :
    AgreesUpToUnread (Machine.skipIf k s) (Machine.skipIf k (s.withUnread b c)) := next (s.advance _) b c

theorem raise (cause : FaultCause) (w : Option Word) (info : Word) (s : State) (b : Bool) (c : Byte) :
    AgreesUpToUnread (Machine.raise cause w info s) (Machine.raise cause w info (s.withUnread b c)) :=
  next (s.setFault _) b c

theorem withinRam {r r' : Result} (i : Instr) (last : Nat) (s : State) (b : Bool) (c : Byte)
    (h : AgreesUpToUnread r r') :
    AgreesUpToUnread (Machine.withinRam i last s r) (Machine.withinRam i last (s.withUnread b c) r') := by
  unfold Machine.withinRam
  split
  · exact raise _ _ _ s b c
  · exact h

theorem keySkip (i : Instr) (x : Reg) (d : Bool) (s : State) (b : Bool) (c : Byte) :
    AgreesUpToUnread (Machine.keySkip i x d s) (Machine.keySkip i x d (s.withUnread b c)) := by
  have hx : (s.withUnread b c).reg x = s.reg x := rfl
  unfold Machine.keySkip
  rw [hx]
  cases keyNumber (s.reg x) with
  | some k => exact skipIf _ s b c
  | none => exact raise _ _ _ s b c

theorem ldVxK (x : Reg) (s : State) (b : Bool) (c : Byte) :
    AgreesUpToUnread (execLdVxK x s) (execLdVxK x (s.withUnread b c)) := by
  have hk : (s.withUnread b c).lowestKey = s.lowestKey := rfl
  unfold execLdVxK
  rw [hk]
  cases s.lowestKey with
  | some k => exact finish (s.setReg x _) b c
  | none => exact next s b c

end AgreesUpToUnread

/-! ## The block transfers -/

section
variable (s : State) (b : Bool) (c : Byte)

theorem storeBlock_withUnread (ks : List Reg) : storeBlock ks (s.withUnread b c) = (storeBlock ks s).withUnread b c := by
  unfold storeBlock
  exact List.foldl_hom (State.withUnread · b c) fun _ _ => rfl

theorem loadBlock_withUnread (ks : List Reg) : loadBlock ks (s.withUnread b c) = (loadBlock ks s).withUnread b c := by
  unfold loadBlock
  exact List.foldl_hom (State.withUnread · b c) fun _ _ => rfl

theorem saveRpl_withUnread (ks : List (Fin 8)) : saveRpl ks (s.withUnread b c) = (saveRpl ks s).withUnread b c := by
  unfold saveRpl
  exact List.foldl_hom (State.withUnread · b c) fun _ _ => rfl

theorem recallRpl_withUnread (ks : List (Fin 8)) :
    recallRpl ks (s.withUnread b c) = (recallRpl ks s).withUnread b c := by
  unfold recallRpl
  exact List.foldl_hom (State.withUnread · b c) fun _ _ => rfl

end

theorem exec_agrees (i : Instr) (s : State) (b : Bool) (c : Byte) :
    AgreesUpToUnread (exec i s) (exec i (s.withUnread b c)) := by
  cases i with
  | cls | scd | scr | scl => exact .finish _ true c
  | drw x y n => exact .withinRam _ _ s b c (.finish (s.drawn (blit s.fb (s.spriteCells (s.reg x) (s.reg y) n))) _ c)
  | exit => exact .next s.restart false 0
  | jp | jpV0 | call | ret => exact .next _ b c
  | seImm | sneImm | seReg | sneReg => exact .skipIf _ s b c
  | skp | sknp => exact .keySkip _ _ _ s b c
  | ldVxK x => exact .ldVxK x s b c
  | ldSTVx x => exact .finish _ b (s.reg x)
  | ldB x => exact .withinRam _ _ s b c (.finish (storeBcd (s.reg x) s) b c)
  | storeRegs x =>
    refine .withinRam _ _ s b c ?_
    rw [storeBlock_withUnread]
    exact .finish _ b c
  | loadRegs x =>
    refine .withinRam _ _ s b c ?_
    rw [loadBlock_withUnread]
    exact .finish _ b c
  | storeRpl x =>
    show AgreesUpToUnread _ (finish (saveRpl _ (s.withUnread b c)))
    rw [saveRpl_withUnread]
    exact .finish _ b c
  | loadRpl x =>
    show AgreesUpToUnread _ (finish (recallRpl _ (s.withUnread b c)))
    rw [recallRpl_withUnread]
    exact .finish _ b c
  | _ => exact .finish _ b c

theorem State.withUnread_changes (s : State) (b : Bool) (c : Byte) :
    ChangesOnly (fun p => p = .st ∨ p = .draw) s (s.withUnread b c) :=
  ((s.setSt_changes c).mono fun _ h => .inl h).trans ((State.setDraw_changes _ b).mono fun _ h => .inr h)

end Sys2Proof.Machine

namespace Sys2Proof.Proofs

open Sys2Proof.Machine Sys2Proof.Claims

/-- Settles O57. -/
theorem drawFlagAndSoundTimerAreUnread : Obligations.DrawFlagAndSoundTimerAreUnread := by
  intro i s t b c h
  obtain ⟨b', c', hu⟩ := exec_agrees i s b c t h
  exact ⟨_, hu, fun p hd hs => t.withUnread_changes b' c' p fun hp => hp.elim hs hd⟩

end Sys2Proof.Proofs
end

section
/-! PROOF. The stack wraps modulo 16 both ways and never faults (10_state.md R27, R28, R29). -/

namespace Sys2Proof.Machine

/-- The pointer after any number of pushes. -/
theorem State.pushes_sp (as : List Word) (s : State) :
    (as.foldl State.push s).sp.val = (s.sp.val + as.length) % 16 := by
  induction as generalizing s with
  | nil => exact (Nat.mod_eq_of_lt s.sp.isLt).symm
  | cons a as ih =>
    rw [List.foldl_cons, ih, State.push_sp, Fin.val_add, List.length_cons]
    omega

/-- Up to sixteen pushes lie in the entries from the old `SP` on, modulo 16, and none overwrites another. -/
theorem State.pushes_stack {as : List Word} (s : State) (hl : as.length ≤ 16) {k : Nat} (hk : k < as.length)
    {j : Fin 16} (hj : j.val = (s.sp.val + k) % 16) : (as.foldl State.push s).stack[j.val] = as[k] := by
  induction as using List.reverseRecOn with
  | nil => cases hk
  | append_singleton as a ih =>
    rw [List.length_append, List.length_singleton] at hl hk
    have hsp := s.pushes_sp as
    rw [List.foldl_append, List.foldl_cons, List.foldl_nil, State.stack_push]
    by_cases hlast : k = as.length
    · subst hlast
      rw [if_pos (Fin.ext (hj.trans hsp.symm)), List.getElem_concat_length rfl]
    · have hne : j ≠ (as.foldl State.push s).sp := fun he => by
        have := congrArg Fin.val he
        omega
      have hk' : k < as.length := by omega
      rw [if_neg hne, ih (by omega) hk', List.getElem_append_left hk']

/-- Sixteen pushes bring `SP` back. -/
theorem State.sixteen_pushes_sp {as : List Word} (s : State) (hl : as.length = 16) :
    (as.foldl State.push s).sp = s.sp := by
  apply Fin.ext
  rw [State.pushes_sp, hl]
  omega

end Sys2Proof.Machine

namespace Sys2Proof.Proofs

open Sys2Proof.Machine Sys2Proof.Claims

/-- Settles O21, by what any number of pushes leaves. -/
theorem stackWrapsSilently : Obligations.StackWrapsSilently := by
  refine ⟨fun s as hl => ⟨s.sixteen_pushes_sp hl, fun k hk => ?_, fun b => ?_⟩, fun s hs => ?_, fun nnn s hs => ?_⟩
  · have hk' : k < as.length := by omega
    rw [List.getD_eq_getElem _ _ hk']
    exact s.pushes_stack hl.le hk' (j := ⟨(s.sp.val + k) % 16, Nat.mod_lt _ (by omega)⟩) rfl
  · rw [State.stack_push, if_pos (s.sixteen_pushes_sp hl).symm]
  · have hsp : s.sp - 1 = 15 := by rw [hs]; rfl
    refine ⟨_, rfl, hsp, ?_, rfl⟩
    have hpop : s.popValue = s.stack[15] := by simp [State.popValue, hsp]
    show (mask12 (s.popValue + 2)).toNat = _
    rw [mask12_toNat, hpop, BitVec.toNat_add]
    exact Nat.mod_mod_of_dvd _ (by decide)
  · refine ⟨_, rfl, ?_, ?_, rfl⟩
    · show s.sp + 1 = 0
      rw [hs]; rfl
    · exact (s.stack_push s.pc 15).trans (if_pos hs.symm)

end Sys2Proof.Proofs
end

section
/-! PROOF. The edges of RAM: a fetch or an access past 0xFFF faults before any change (20_memory.md R68, R70), and a store
is seen by the next fetch (R76). -/

namespace Sys2Proof.Machine

open Sys2Proof.Claims

/-! ## Accesses -/

/-- An access whose last address lies past 0xFFF raises `MemOutOfRange` before any change (R70). -/
theorem withinRam_faults {i : Instr} {last : Nat} {s : State} (body : Result) (h : 0xFFF < last) :
    ∃ t, withinRam i last s body = .next t ∧ t.fault = some ⟨.memOutOfRange, some (encode i), s.pc, 0x1000⟩ ∧
      ChangesOnly (fun p => p = .fault) s t :=
  ⟨_, withinRam_eq_next.2 (.inl ⟨h, rfl⟩), rfl, s.setFault_changes _⟩

theorem spriteHeight_pos (n : Nat) : 0 < spriteHeight n := by
  unfold spriteHeight; split <;> omega

theorem State.bytesPerRow_pos (s : State) (n : Nat) : 0 < s.bytesPerRow n := by
  unfold State.bytesPerRow; split <;> omega

theorem State.bytesPerRow_eq_rowBytes (s : State) (n : Nat) : s.bytesPerRow n = rowBytes s.mode n := by
  simp [State.bytesPerRow, State.wideSprite, rowBytes]

/-- The last address of a sprite's bytes, which are never empty (R250). -/
theorem State.indexed_sprite_last (s : State) (n : Nat) :
    s.indexed (spriteHeight n * s.bytesPerRow n - 1) = s.i.toNat + height n * rowBytes s.mode n - 1 := by
  have hpos : 0 < spriteHeight n * s.bytesPerRow n := Nat.mul_pos (spriteHeight_pos n) (s.bytesPerRow_pos n)
  rw [← s.bytesPerRow_eq_rowBytes]
  exact (Nat.add_sub_assoc hpos _).symm

/-! ## A store and the next fetch -/

/-- After `FX55` the byte at `I + k` is `V[k]` for every `k` up to `x` (R196). -/
theorem storeBlock_byte_indexed {x k : Reg} (s : State) (h : k ≤ x) :
    (storeBlock (regsUpTo x) s).byte (s.indexed k.val) = s.reg k := by
  simp [storeBlock_byte, State.indexed, mem_regsUpTo, h]

/-- `FX55` inside RAM stores its block and advances (R196). -/
theorem execStoreRegs_inside {x : Reg} {s : State} (h : s.indexed x.val ≤ 0xFFF) :
    exec (.storeRegs x) s = .next ((storeBlock (regsUpTo x) s).advance 2) :=
  withinRam_eq_next.2 (.inr ⟨h, rfl⟩)

/-- With a `Cycle` due, no fault and a word at `pc` that decodes, a step executes its instruction (R273). -/
theorem step_of_decode {s : State} {i : Instr} (he : s.dueEvent = .cycle) (hf : s.fault = none)
    (hp : s.pc.toNat + 1 ≤ 0xFFF) (hd : decode s.fetchWord = some i) : step s = exec i s.takeEvent := by
  rw [step_eq_cycle he hf]
  exact cycle_of_decode hp hd

/-- `FX55` with `x = 1` and `I` at the next instruction makes its word the one stored (R76, D23). -/
theorem fetchWord_storeBlock_next {s : State} (hp : s.pc.toNat + 2 ≤ 0xFFF) (hi : s.i.toNat = s.pc.toNat + 2) :
    ((storeBlock (regsUpTo 1) s).advance 2).fetchWord = bigEndian (s.reg 0) (s.reg 1) := by
  have hpc : ((storeBlock (regsUpTo 1) s).advance 2).pc.toNat = s.i.toNat := by
    rw [State.advance_pc_toNat, storeBlock_eq, hi]
    exact Nat.mod_eq_of_lt (Nat.lt_succ_of_le hp)
  unfold State.fetchWord
  rw [hpc]
  exact congrArg₂ bigEndian (storeBlock_byte_indexed s (k := 0) (by decide))
    (storeBlock_byte_indexed s (k := 1) (by decide))

end Sys2Proof.Machine

namespace Sys2Proof.Proofs

open Sys2Proof.Machine Sys2Proof.Claims

/-- Settles O9: each of the four instructions checks its last address first. -/
theorem accessPastTopFaults : Obligations.AccessPastTopFaults := by
  rintro i s (⟨x, rfl, hl⟩ | ⟨x, rfl | rfl, hl⟩ | ⟨x, y, n, rfl, hl⟩)
  · exact withinRam_faults _ hl
  · exact withinRam_faults _ hl
  · exact withinRam_faults _ hl
  · rw [← s.indexed_sprite_last] at hl
    exact withinRam_faults _ hl

/-- Settles O58, by the word that the store leaves at the next `pc`. -/
theorem storedWordRunsNext : Obligations.StoredWordRunsNext := by
  intro s j he he' hf hp hd hi hj
  have hlast : s.takeEvent.indexed 1 ≤ 0xFFF := by
    show s.i.toNat + 1 ≤ 0xFFF
    omega
  have hstep : step s = .next ((storeBlock (regsUpTo 1) s.takeEvent).advance 2) :=
    (step_of_decode he hf (by omega) hd).trans (execStoreRegs_inside hlast)
  have hadv : Advanced 2 s ((storeBlock (regsUpTo 1) s.takeEvent).advance 2) := by
    rw [storeBlock_eq]
    exact s.advance_two
  have hword : ((storeBlock (regsUpTo 1) s.takeEvent).advance 2).fetchWord = bigEndian (s.reg 0) (s.reg 1) :=
    fetchWord_storeBlock_next (s := s.takeEvent) (show s.pc.toNat + 2 ≤ 0xFFF by omega) hi
  refine ⟨_, hstep, hadv, step_of_decode ?_ ?_ ?_ (hword ▸ hj)⟩
  · rw [storeBlock_eq]; exact he'
  · rw [storeBlock_eq]; exact hf
  · rw [hadv]; omega

/-- Settles O8. -/
theorem fetchPastTopFaults : Obligations.FetchPastTopFaults := by
  intro s he hf hp
  refine ⟨_, step_eq_next.2 (.inl ⟨he, hf, cycle_eq_next.2 (.inl ⟨hp, rfl⟩)⟩), rfl, rfl, ?_⟩
  exact (s.takeEvent_changes.mono fun _ h => .inr h).trans ((State.setFault_changes _ _).mono fun _ h => .inl h)

end Sys2Proof.Proofs
end

section
/-! PROOF. The decoder and the encoder invert each other (30_encoding.md R91 to R96), and the words the decoder leaves
unread are those of R100. -/

namespace Sys2Proof

/-! ## The fixed bits of `00CN` (R93, R99) -/

theorem extractLsb'_eq_00C_iff {w : Word} : w.extractLsb' 4 12 = 0x00C#12 ↔ w.toNat / 16 = 0x00C := by
  rw [← BitVec.toNat_inj, BitVec.extractLsb'_toNat, Nat.shiftRight_eq_div_pow]
  simp only [BitVec.toNat_ofNat]
  omega

/-- A word `00CN` is `SCD` of its last nibble. -/
theorem decode_00C {w : Word} (h : w.toNat / 16 = 0x00C) : decode w = some (.scd (fieldN w).toNat) := by
  have hop : fieldOp w = 0x0#4 := by
    apply BitVec.eq_of_toNat_eq
    rw [fieldOp_toNat, BitVec.toNat_ofNat]
    omega
  simp [decode, hop, decode0, extractLsb'_eq_00C_iff.2 h]

theorem decode_formatFN {n : Nat} (h : n < 16) : decode (formatFN n) = some (.scd n) := by
  have hn : (fieldN (formatFN n)).toNat = n := by rw [fieldN_toNat, formatFN_toNat]; omega
  rw [decode_00C (by rw [formatFN_toNat]; omega), hn]

theorem formatFN_fieldN {w : Word} (h : w.toNat / 16 = 0x00C) : formatFN (fieldN w).toNat = w := by
  apply BitVec.eq_of_toNat_eq
  rw [formatFN_toNat, fieldN_toNat]
  omega

/-! ## Decoding an encoded instruction -/

theorem lt_of_countFits {n : Nat} (h : countFits n = true) : n < 16 := of_decide_eq_true h

/-- Decoding the word of an instruction that fits its fields gives it back (R96). -/
theorem decode_encode {i : Instr} (h : i.wellFormed = true) : decode (encode i) = some i := by
  cases i with
  | scd n => exact decode_formatFN (lt_of_countFits h)
  | cls | ret | scr | scl | exit | low | high => rfl
  | drw x y n =>
    have hn : (BitVec.ofNat 4 n).toNat = n := Nat.mod_eq_of_lt (lt_of_countFits h)
    exact (decode_formatD x y _).trans (by rw [hn])
  | jp | call | seImm | sneImm | ldImm | addImm | ldI | jpV0 | rnd => simp [encode]
  | seReg | sneReg => simp [encode]
  | ldReg | orReg | andReg | xorReg | addReg | sub | shr | subn | shl => simp [encode, decode8]
  | skp | sknp => simp [encode, decodeE]
  | ldVxDT | ldVxK | ldDTVx | ldSTVx | addI | ldF | ldHF | ldB | storeRegs | loadRegs | storeRpl | loadRpl =>
    simp [encode, decodeF]

/-! ## Encoding a decoded word -/

theorem encode_of_decode0 {w : Word} {i : Instr} (h : decode0 w = some i) : encode i = w := by
  unfold decode0 at h
  split at h
  next hC =>
    obtain rfl := Option.some.inj h
    exact formatFN_fieldN (extractLsb'_eq_00C_iff.1 hC)
  next => split_ifs at h with hw hw hw hw hw hw hw <;> obtain rfl := Option.some.inj h <;> exact hw.symm

theorem encode_of_decode8 {x y : Reg} {n : BitVec 4} {i : Instr} (h : decode8 x y n = some i) :
    encode i = formatFXYN 0x8 x y n := by
  unfold decode8 at h
  split at h <;> cases h <;> rfl

theorem encode_of_decodeE {x : Reg} {kk : Byte} {i : Instr} (h : decodeE x kk = some i) :
    encode i = formatFXK 0xE x kk := by
  unfold decodeE at h
  split at h <;> cases h <;> rfl

theorem encode_of_decodeF {x : Reg} {kk : Byte} {i : Instr} (h : decodeF x kk = some i) :
    encode i = formatFXK 0xF x kk := by
  unfold decodeF at h
  split at h <;> cases h <;> rfl

section
variable {w : Word} {op n : BitVec 4}

theorem formatFA_of_fieldOp (h : fieldOp w = op) : formatFA op (fieldNNN w) = w := h ▸ formatFA_fields w

theorem formatFXK_of_fieldOp (h : fieldOp w = op) : formatFXK op (fieldX w) (fieldKK w) = w := h ▸ formatFXK_fields w

theorem formatFXYN_of_fields (h : fieldOp w = op) (hn : fieldN w = n) :
    formatFXYN op (fieldX w) (fieldY w) n = w := h ▸ hn ▸ formatFXYN_fields w

end

/-- A word that decodes is made of its fields, in the format of its top nibble (R93, R95). -/
theorem encode_of_decode {w : Word} {i : Instr} (h : decode w = some i) : encode i = w := by
  unfold decode at h
  split at h
  case h_1 => exact encode_of_decode0 h
  case h_2 hop | h_3 hop | h_11 hop | h_12 hop => cases h; exact formatFA_of_fieldOp hop
  case h_4 hop | h_5 hop | h_7 hop | h_8 hop | h_13 hop => cases h; exact formatFXK_of_fieldOp hop
  case h_6 hop | h_10 hop =>
    split_ifs at h with hn
    cases h
    exact formatFXYN_of_fields hop hn
  case h_9 hop => exact (encode_of_decode8 h).trans (formatFXYN_of_fields hop rfl)
  case h_14 hop => cases h; exact formatFXYN_of_fields hop (by simp)
  case h_15 hop => exact (encode_of_decodeE h).trans (formatFXK_of_fieldOp hop)
  case h_16 hop => exact (encode_of_decodeF h).trans (formatFXK_of_fieldOp hop)
  case h_17 => cases h

/-! ## The rows of the opcode map (R96) -/

open Laws.EncodesRow in
/-- The word of an instruction selects the instruction's own row. -/
theorem encode_selects_row (i : Instr) : (opcodeRow i).selects (encode i) = true := by
  cases i
  exacts [scd _, cls, ret, scr, scl, exit, low, high, jp _, call _, seImm _ _, sneImm _ _, seReg _ _, ldImm _ _,
    addImm _ _, ldReg _ _, orReg _ _, andReg _ _, xorReg _ _, addReg _ _, sub _ _, shr _ _, subn _ _, shl _ _,
    sneReg _ _, ldI _, jpV0 _, rnd _ _, drw _ _ _, skp _, sknp _, ldVxDT _, ldVxK _, ldDTVx _, ldSTVx _, addI _,
    ldF _, ldHF _, ldB _, storeRegs _, loadRegs _, storeRpl _, loadRpl _]

theorem and_mask_of_decode {w : Word} {i : Instr} (h : decode w = some i) :
    w &&& (opcodeRow i).mask = (opcodeRow i).pattern := by
  rw [← encode_of_decode h]
  exact of_decide_eq_true (encode_selects_row i)

section
variable {w p : Word}

/-! Each mask keeps the fields that the decoder looks at. -/

theorem fieldOp_of_and_F000 (h : w &&& 0xF000 = p) : fieldOp w = fieldOp p := by
  rw [← h, and_F000, fieldOp_formatFA]

theorem fields_of_and_F00F (h : w &&& 0xF00F = p) : fieldOp w = fieldOp p ∧ fieldN w = fieldN p := by
  rw [← h, and_F00F, fieldOp_formatFXYN, fieldN_formatFXYN]
  exact ⟨rfl, rfl⟩

theorem fields_of_and_F0FF (h : w &&& 0xF0FF = p) : fieldOp w = fieldOp p ∧ fieldKK w = fieldKK p := by
  rw [← h, and_F0FF, fieldOp_formatFXK, fieldKK_formatFXK]
  exact ⟨rfl, rfl⟩

theorem eq_of_and_FFFF (h : w &&& 0xFFFF = p) : w = p := (BitVec.and_allOnes (x := w)).symm.trans h

theorem prefix_of_and_FFF0 (h : w &&& 0xFFF0 = 0x00C0) : w.toNat / 16 = 0x00C := by
  have hC := congrArg (BitVec.extractLsb' 4 12) h
  rw [BitVec.extractLsb'_and] at hC
  exact extractLsb'_eq_00C_iff.1 (BitVec.and_allOnes.symm.trans hC)

end

/-- A word that selects a row decodes to an instruction of that row, with the operands of its fields. -/
theorem decode_of_and_mask {w : Word} {j : Instr} (h : w &&& (opcodeRow j).mask = (opcodeRow j).pattern) :
    ∃ i, decode w = some i ∧ opcodeRow i = opcodeRow j := by
  cases j with
  | scd => exact ⟨_, decode_00C (prefix_of_and_FFF0 h), rfl⟩
  | cls | ret | scr | scl | exit | low | high =>
    obtain rfl := eq_of_and_FFFF h
    exact ⟨_, rfl, rfl⟩
  | jp | call | seImm | sneImm | ldImm | addImm | ldI | jpV0 | rnd | drw =>
    have hop := fieldOp_of_and_F000 h
    rw [decode, hop]
    simp [opcodeRow, fieldOp]
  | seReg | sneReg | ldReg | orReg | andReg | xorReg | addReg | sub | shr | subn | shl =>
    obtain ⟨hop, hn⟩ := fields_of_and_F00F h
    rw [decode, hop, hn]
    simp [opcodeRow, fieldOp, fieldN, decode8]
  | skp | sknp | ldVxDT | ldVxK | ldDTVx | ldSTVx | addI | ldF | ldHF | ldB | storeRegs | loadRegs | storeRpl | loadRpl =>
    obtain ⟨hop, hkk⟩ := fields_of_and_F0FF h
    rw [decode, hop, hkk]
    simp [opcodeRow, fieldOp, fieldKK, decodeE, decodeF]

/-- The decoder answers one instruction, so the word selects one row. -/
theorem opcodeRow_unique {w : Word} {i j : Instr} (hi : w &&& (opcodeRow i).mask = (opcodeRow i).pattern)
    (hj : w &&& (opcodeRow j).mask = (opcodeRow j).pattern) : opcodeRow i = opcodeRow j := by
  obtain ⟨a, ha, hai⟩ := decode_of_and_mask hi
  obtain ⟨b, hb, hbj⟩ := decode_of_and_mask hj
  obtain rfl := Option.some.inj (ha.symm.trans hb)
  exact hai.symm.trans hbj

/-! ## The words that decode to nothing (R100) -/

theorem decode0_eq_none {w : Word} :
    decode0 w = none ↔ ¬ (0x00C0 ≤ w.toNat ∧ w.toNat ≤ 0x00CF) ∧ w.toNat ≠ 0x00E0 ∧ w.toNat ≠ 0x00EE ∧
      ¬ (0x00FB ≤ w.toNat ∧ w.toNat ≤ 0x00FF) := by
  simp only [decode0, extractLsb'_eq_00C_iff]
  simp only [← BitVec.toNat_inj, BitVec.ofNat_eq_ofNat, BitVec.toNat_ofNat]
  split_ifs <;> simp <;> omega

/-! In each sub-decoder the last case is reached by the sub-opcodes that differ from every listed one. -/

theorem decode8_eq_none {x y : Reg} {n : BitVec 4} :
    decode8 x y n = none ↔ n.toNat ∈ [0x8, 0x9, 0xA, 0xB, 0xC, 0xD, 0xF] := by
  unfold decode8
  split
  case h_10 =>
    simp only [imp_false, ← BitVec.toNat_inj, BitVec.toNat_ofNat] at *
    simp only [List.mem_cons, List.not_mem_nil, true_iff]
    omega
  all_goals simp

theorem decodeE_eq_none {x : Reg} {kk : Byte} : decodeE x kk = none ↔ kk.toNat ∉ [0x9E, 0xA1] := by
  unfold decodeE
  split
  case h_3 => simp_all [← BitVec.toNat_inj]
  all_goals simp

theorem decodeF_eq_none {x : Reg} {kk : Byte} :
    decodeF x kk = none ↔ kk.toNat ∉ [0x07, 0x0A, 0x15, 0x18, 0x1E, 0x29, 0x30, 0x33, 0x55, 0x65, 0x75, 0x85] := by
  unfold decodeF
  split
  case h_13 => simp_all [← BitVec.toNat_inj]
  all_goals simp

/-- The table of R100 in terms of the fields that the decoder looks at. -/
theorem decode_eq_none {w : Word} :
    decode w = none ↔
      (fieldOp w = 0x0 ∧ decode0 w = none) ∨ ((fieldOp w = 0x5 ∨ fieldOp w = 0x9) ∧ fieldN w ≠ 0) ∨
      (fieldOp w = 0x8 ∧ decode8 (fieldX w) (fieldY w) (fieldN w) = none) ∨
      (fieldOp w = 0xE ∧ decodeE (fieldX w) (fieldKK w) = none) ∨
      (fieldOp w = 0xF ∧ decodeF (fieldX w) (fieldKK w) = none) := by
  unfold decode
  split
  case h_17 =>
    -- the sixteen top nibbles are all listed
    exfalso
    simp only [imp_false, ← BitVec.toNat_inj, BitVec.toNat_ofNat] at *
    omega
  all_goals
    rename_i hop
    simp [hop]

end Sys2Proof

namespace Sys2Proof.Proofs

open Sys2Proof.Machine Sys2Proof.Claims

/-- Settles O2, by the fields that each format holds. -/
theorem decodeInvertsEncode : Obligations.DecodeInvertsEncode := fun _ => decode_encode

/-- Settles O3: a word that decodes is put together again from its fields. -/
theorem encodeInvertsDecode : Obligations.EncodeInvertsDecode :=
  fun _ _ h => ⟨decode_wellFormed h, encode_of_decode h⟩

/-- Settles O4: the masks keep the fields the decoder looks at, and it answers one instruction. -/
theorem wordSelectsOneRow : Obligations.WordSelectsOneRow :=
  ⟨fun _ _ => and_mask_of_decode, fun _ _ => decode_of_and_mask, fun _ _ _ => opcodeRow_unique⟩

/-- Settles O5: each disjunct of the table is one top nibble's part of the decoder. -/
theorem illegalWordsAreExactly : Obligations.IllegalWordsAreExactly := by
  intro w
  rw [decode_eq_none, decode0_eq_none, decode8_eq_none, decodeE_eq_none, decodeF_eq_none]
  simp only [← BitVec.toNat_inj, BitVec.ofNat_eq_ofNat, BitVec.toNat_ofNat, ne_eq, fieldOp_toNat, fieldN_toNat,
    fieldKK_toNat]

/-- Settles O7: a word that selects no row does not decode, and the cycle raises the fault. -/
theorem illegalWordRaisesUnknownOpcode : Obligations.IllegalWordRaisesUnknownOpcode := by
  rintro s _ he hf hp rfl hrow
  have hd : decode s.takeEvent.fetchWord = none :=
    Option.eq_none_iff_forall_ne_some.2 fun i hi => hrow i (and_mask_of_decode hi)
  refine ⟨_, step_eq_next.2 (.inl ⟨he, hf, cycle_eq_next.2 (.inr ⟨hp, .inr ⟨hd, rfl⟩⟩)⟩), rfl, rfl, ?_⟩
  exact (s.takeEvent_changes.mono fun _ h => .inr h).trans ((State.setFault_changes _ _).mono fun _ h => .inl h)

/-- Settles O1, by running the decoder on the fifteen words. -/
theorem writtenWordsDecode : Obligations.WrittenWordsDecode := by
  unfold Obligations.WrittenWordsDecode
  decide

end Sys2Proof.Proofs
end

section
/-! PROOF. Control flow (40_control_flow.md): where each jump, call, return and skip leaves `pc` and the stack. -/

namespace Sys2Proof.Machine

open Sys2Proof.Claims

/-- A masked sum is the sum modulo 0x1000, although the addition itself wraps at 0x10000 (R24). -/
theorem mask12_add_toNat (a b : Word) : (mask12 (a + b)).toNat = (a.toNat + b.toNat) % 0x1000 := by
  rw [mask12_toNat, BitVec.toNat_add]
  exact Nat.mod_mod_of_dvd _ (by decide)

/-! ## Skips (R123 to R126) -/

/-- A skip advances by 4 under a premise that makes its condition true and by 2 under one that makes it false. -/
theorem skipIf_advances (s : State) {c : Bool} {p q : Prop} (hp : p → c = true) (hq : q → c = false) :
    ∃ t, skipIf c s = .next t ∧ (p → Advanced 4 s t) ∧ (q → Advanced 2 s t) ∧ ChangesOnly (fun r => r = .pc) s t := by
  refine ⟨_, skipIf_eq_next.2 rfl, fun h => ?_, fun h => ?_, s.advance_changes _⟩
  · rw [hp h]; exact s.advance_four
  · rw [hq h]; exact s.advance_two

/-! ## The stack (R27, R28) -/

/-- What a pop returns depends on `SP` and the entries alone. -/
theorem State.popValue_congr {s t : State} (hsp : s.sp = t.sp) (hst : s.stack = t.stack) :
    s.popValue = t.popValue := by
  simp only [State.popValue, hsp, hst]

/-- A pop steps `SP` back modulo 16 (R28). -/
theorem State.popped_sp_val (s : State) : s.popped.sp.val = (s.sp.val + 15) % 16 := by
  rw [State.popped_sp, Fin.val_sub]
  show (16 - 1 + s.sp.val) % 16 = _
  rw [Nat.add_comm]

/-! ## CALL and RET (R121, R122) -/

theorem exec_call_eq_next {nnn : BitVec 12} {s t : State} :
    exec (.call nnn) s = .next t ↔ (s.push s.pc).setPc (address nnn) = t := by simp [exec, execCall]

theorem exec_ret_eq_next {s t : State} :
    exec .ret s = .next t ↔ s.popped.setPc (mask12 (s.popValue + 2)) = t := by simp [exec, execRet]

end Sys2Proof.Machine

namespace Sys2Proof.Proofs

open Sys2Proof.Machine Sys2Proof.Claims

/-- Settles O19: the entry at the old `SP` is what the push stored. -/
theorem callPushesItsAddress : Obligations.CallPushesItsAddress := by
  refine fun nnn s => ⟨decode_format2 nnn, _, exec_call_eq_next.2 rfl, address_toNat nnn, ?_, Fin.val_add _ _, ?_⟩
  · exact (s.stack_push s.pc s.sp).trans (if_pos rfl)
  · exact ((s.push_changes s.pc).mono fun _ h => .inr h.symm).trans ((State.setPc_changes _ _).mono fun _ h => .inl h)

/-- Settles O20: a pop that finds `SP` and the entries as the push left them returns what was pushed. -/
theorem returnPopsPc : Obligations.ReturnPopsPc := by
  refine ⟨decode_encode (i := .ret) rfl, fun s => ?_, fun nnn s t r u hcall hsp hst hret => ?_⟩
  · refine ⟨_, exec_ret_eq_next.2 rfl, s.popped_sp_val, mask12_add_toNat s.popValue 2, ?_⟩
    exact ((s.setSp_changes _).mono fun _ h => .inr h).trans ((State.setPc_changes _ _).mono fun _ h => .inl h)
  · obtain rfl := exec_call_eq_next.1 hcall
    obtain rfl := exec_ret_eq_next.1 hret
    have hpop : r.popValue = s.pc := (State.popValue_congr hsp hst).trans (s.popValue_push s.pc)
    constructor
    · rw [Advanced, ← hpop]
      exact mask12_add_toNat r.popValue 2
    · calc r.sp - 1 = (s.push s.pc).sp - 1 := congrArg (· - 1) hsp
        _ = s.sp := s.popped_push_sp s.pc

/-- Settles O22: each skip is `skipIf` of its comparison. -/
theorem skipsAdvanceFourOrTwo : Obligations.SkipsAdvanceFourOrTwo := fun x y kk s =>
  ⟨⟨decode_format3 x kk, skipIf_advances s beq_iff_eq.2 beq_eq_false_iff_ne.2⟩,
   ⟨decode_format4 x kk, skipIf_advances s bne_iff_ne.2 bne_eq_false_iff_eq.2⟩,
   ⟨decode_encode (i := .seReg x y) rfl, skipIf_advances s beq_iff_eq.2 beq_eq_false_iff_ne.2⟩,
   ⟨decode_encode (i := .sneReg x y) rfl, skipIf_advances s bne_iff_ne.2 bne_eq_false_iff_eq.2⟩⟩

/-- Settles O18: JP is one write of `pc`, and a 12-bit address widens without loss. -/
theorem jumpSetsPc : Obligations.JumpSetsPc := fun nnn s =>
  ⟨decode_format1 nnn, s.setPc (address nnn), rfl, address_toNat nnn, s.setPc_changes _⟩

/-- Settles O23: the sum of a 12-bit address and a byte does not wrap at 0x10000, so the mask is the only wrap. -/
theorem jumpOffsetsByV0 : Obligations.JumpOffsetsByV0 := by
  refine fun nnn s => ⟨decode_formatB nnn, s.setPc (mask12 (address nnn + wide (s.reg 0))), rfl, ?_, s.setPc_changes _⟩
  rw [State.setPc_pc, mask12_add_toNat, address_toNat, wide_toNat]

end Sys2Proof.Proofs
end

section
/-! PROOF. Arithmetic and logic (41_alu.md): what a register write and a register write with a flag leave, and the result
and the flag of each operation as numbers. -/

namespace Sys2Proof.Machine

open Sys2Proof.Claims

/-! ## One register, no flag -/

theorem writeReg_spec (x : Reg) (r : Byte) (s : State) :
    ∃ t, writeReg x r s = .next t ∧ t.reg x = r ∧ Advanced 2 s t ∧
      ChangesOnly (fun p => p = .reg x ∨ p = .pc) s t :=
  ⟨_, writeReg_eq_next.2 rfl, s.reg_setReg_same x r, State.advance_two _,
    ((s.setReg_changes x r).mono fun _ h => .inl h).trans ((State.advance_changes _ _).mono fun _ h => .inr h)⟩

/-- The write, with its result given bit by bit. -/
theorem writeReg_bits (x : Reg) (s : State) {r : Byte} {f : Nat → Bool} (hr : ∀ k, r.getLsbD k = f k) :
    ∃ t, writeReg x r s = .next t ∧ (∀ k < 8, (t.reg x).getLsbD k = f k) ∧ Advanced 2 s t ∧
      ChangesOnly (fun p => p = .reg x ∨ p = .pc) s t := by
  obtain ⟨t, ht, rfl, hpc, hc⟩ := writeReg_spec x r s
  exact ⟨t, ht, fun k _ => hr k, hpc, hc⟩

/-! ## One register and the flag (R39, R181) -/

theorem isFlag_flagByte {b : Bool} {p : Prop} (h : b = true ↔ p) : IsFlag (flagByte b) p :=
  ⟨fun hp => if_pos (h.2 hp), fun hp => if_neg fun hb => hp (h.1 hb)⟩

/-- The flag survives in register 15; the destination holds the result, measured by `f`, unless it is that register. -/
theorem writeRegFlag_spec {α : Type} (f : Byte → α) (x : Reg) (s : State) {r : Byte} {a : α} {b : Bool} {p : Prop}
    (hr : f r = a) (hb : b = true ↔ p) :
    ∃ t, writeRegFlag x r b s = .next t ∧ (x ≠ 15 → f (t.reg x) = a) ∧ IsFlag (t.reg 15) p ∧ Advanced 2 s t ∧
      ChangesOnly (fun q => q = .reg x ∨ q = .reg 15 ∨ q = .pc) s t := by
  refine ⟨_, writeRegFlag_eq_next.2 rfl, fun hx => ?_, ?_, State.advance_two _, ?_⟩
  · have hreg : (s.setRegFlag x r b).reg x = r := by rw [State.reg_setRegFlag, if_neg hx, if_pos rfl]
    exact (congrArg f hreg).trans hr
  · have hflag : (s.setRegFlag x r b).reg 15 = flagByte b := by rw [State.reg_setRegFlag, if_pos rfl]
    exact hflag ▸ isFlag_flagByte hb
  · exact ((s.setRegFlag_changes x r b).mono fun _ h => h.imp_right .inl).trans
      ((State.advance_changes _ _).mono fun _ h => .inr (.inr h))

/-! ## Flags as conditions on numbers -/

theorem carry_iff {a b : Byte} : carry a b = true ↔ a.toNat + b.toNat > 255 := decide_eq_true_iff

theorem notBorrow_iff {a b : Byte} : notBorrow a b = true ↔ ¬ a.toNat < b.toNat := by simp [notBorrow]

theorem shiftedOutRight_iff {a : Byte} : shiftedOutRight a = true ↔ a.toNat % 2 = 1 := by
  rw [shiftedOutRight, BitVec.getLsbD, Nat.testBit_zero, decide_eq_true_iff]

theorem shiftedOutLeft_iff {a : Byte} : shiftedOutLeft a = true ↔ 128 ≤ a.toNat := by
  have hmsb : shiftedOutLeft a = a.msb := rfl
  rw [hmsb, BitVec.msb_eq_decide, decide_eq_true_iff]

/-! ## Results as numbers -/

/-- A byte difference is the integer difference modulo 256 (R161, R162). -/
theorem sub_toNat_cast (a b : Byte) : ((a - b).toNat : Int) = ((a.toNat : Int) - b.toNat) % 256 := by
  rw [BitVec.toNat_sub]
  omega

theorem shiftRight_one_toNat (a : Byte) : (a >>> 1).toNat = a.toNat / 2 := by
  rw [BitVec.toNat_ushiftRight, Nat.shiftRight_one]

theorem shiftLeft_one_toNat (a : Byte) : (a <<< 1).toNat = a.toNat * 2 % 256 := by
  rw [BitVec.toNat_shiftLeft, Nat.shiftLeft_eq]

/-! ## Shifts (R163, R164, R170 to R172) -/

section
variable {x y : Reg} {s : State}

theorem shiftSource_inPlace (h : s.params.shift = .inPlace) : shiftSource x y s = s.reg x := by
  rw [shiftSource, h]

theorem shiftSource_legacy (h : s.params.shift = .legacy) : shiftSource x y s = s.reg y := by
  rw [shiftSource, h]

theorem exec_shr_spec {a : Byte} (h : shiftSource x y s = a) :
    ∃ t, exec (.shr x y) s = .next t ∧
      (x ≠ 15 → (t.reg x).toNat = a.toNat / 2) ∧ IsFlag (t.reg 15) (a.toNat % 2 = 1) ∧ Advanced 2 s t ∧
      ChangesOnly (fun p => p = .reg x ∨ p = .reg 15 ∨ p = .pc) s t := by
  subst h
  exact writeRegFlag_spec BitVec.toNat x s (shiftRight_one_toNat _) shiftedOutRight_iff

theorem exec_shl_spec {a : Byte} (h : shiftSource x y s = a) :
    ∃ t, exec (.shl x y) s = .next t ∧
      (x ≠ 15 → (t.reg x).toNat = a.toNat * 2 % 256) ∧ IsFlag (t.reg 15) (128 ≤ a.toNat) ∧ Advanced 2 s t ∧
      ChangesOnly (fun p => p = .reg x ∨ p = .reg 15 ∨ p = .pc) s t := by
  subst h
  exact writeRegFlag_spec BitVec.toNat x s (shiftLeft_one_toNat _) shiftedOutLeft_iff

end

end Sys2Proof.Machine

namespace Sys2Proof.Proofs

open Sys2Proof.Machine Sys2Proof.Claims

/-- Settles O24: each is one register write, of a byte or of a byte known bit by bit. -/
theorem movesAndBitwiseWriteOneRegister : Obligations.MovesAndBitwiseWriteOneRegister := fun x y kk s =>
  ⟨⟨decode_format6 x kk, writeReg_spec x kk s⟩,
   ⟨decode_format8 x y 0x0, writeReg_spec x (s.reg y) s⟩,
   ⟨decode_format8 x y 0x1, writeReg_bits x s fun _ => BitVec.getLsbD_or⟩,
   ⟨decode_format8 x y 0x2, writeReg_bits x s fun _ => BitVec.getLsbD_and⟩,
   ⟨decode_format8 x y 0x3, writeReg_bits x s fun _ => BitVec.getLsbD_xor⟩⟩

/-- Settles O26: the sum is written first and the carry last, so the carry stays also where `x` is 15. -/
theorem addSetsCarry : Obligations.AddSetsCarry := fun x y s =>
  ⟨decode_format8 x y 0x4, writeRegFlag_spec BitVec.toNat x s (BitVec.toNat_add _ _) carry_iff⟩

/-- Settles O27: SUBN is SUB with its operands exchanged. -/
theorem subtractSetsNotBorrow : Obligations.SubtractSetsNotBorrow := fun x y s =>
  ⟨⟨decode_format8 x y 0x5, writeRegFlag_spec (fun r => (r.toNat : Int)) x s (sub_toNat_cast _ _) notBorrow_iff⟩,
   ⟨decode_format8 x y 0x7, writeRegFlag_spec (fun r => (r.toNat : Int)) x s (sub_toNat_cast _ _) notBorrow_iff⟩⟩

/-- Settles O28: in place, a shift reads `V[x]`. -/
theorem shiftsActInPlace : Obligations.ShiftsActInPlace := fun x y _ h =>
  ⟨⟨decode_format8 x y 0x6, exec_shr_spec (shiftSource_inPlace h)⟩,
   ⟨decode_format8 x y 0xE, exec_shl_spec (shiftSource_inPlace h)⟩⟩

/-- Settles O29: in the legacy variant, a shift reads `V[y]`. -/
theorem legacyShiftsReadVy : Obligations.LegacyShiftsReadVy := fun _ _ _ h =>
  ⟨exec_shr_spec (shiftSource_legacy h), exec_shl_spec (shiftSource_legacy h)⟩

/-- Settles O30: the draw is counted, and the register write after it leaves the count alone. -/
theorem randomByteIsMasked : Obligations.RandomByteIsMasked := by
  intro x kk s
  obtain ⟨t, ht, hbits, hpc, hc⟩ :=
    writeReg_bits x s.countDraw (r := s.drawnByte &&& kk) fun _ => BitVec.getLsbD_and
  refine ⟨decode_formatC x kk, t, ht, hbits, hc .rngDraws (by simp), hpc, ?_⟩
  exact (s.countDraw_changes.mono fun _ h => .inr (.inl h)).trans (hc.mono fun _ h => h.imp_right .inr)

/-- Settles O25. -/
theorem addImmediateSetsNoFlag : Obligations.AddImmediateSetsNoFlag := by
  intro x kk s
  obtain ⟨t, ht, hx, hpc, hc⟩ := writeReg_spec x (s.reg x + kk) s
  refine ⟨decode_format7 x kk, t, ht, ?_, hpc, hc⟩
  rw [hx]
  exact BitVec.toNat_add _ _

end Sys2Proof.Proofs
end

section
/-! PROOF. Index register, loads and stores, and the RPL flags (42_index_memory.md): the end every one of them shares, the
addresses and digits as numbers, and what each transfer leaves. -/

namespace Sys2Proof.Machine

open Sys2Proof.Claims

/-! ## The end of an ordinary instruction (R25) -/

/-- Work that leaves `pc` alone and then `advance(2)`: `pc` is two on, and nothing else is added to what the work changed. -/
theorem ChangesOnly.advance_two {ps qs : Part → Prop} {s u : State} (h : ChangesOnly ps s u) (hpc : ¬ ps .pc)
    (hqs : ∀ p, p = .pc ∨ ps p → qs p) : Advanced 2 s (u.advance 2) ∧ ChangesOnly qs s (u.advance 2) := by
  have hpcSame : u.pc = s.pc := h .pc hpc
  refine ⟨?_, (h.mono fun p hp => hqs p (.inr hp)).trans ((u.advance_changes 2).mono fun p hp => hqs p (.inl hp))⟩
  rw [Advanced, ← hpcSame]
  exact u.advance_two

/-- A checked access whose last address lies inside RAM is what follows the check (R70). -/
theorem withinRam_inside {i : Instr} {last : Nat} {s u : State} (h : last ≤ 0xFFF) :
    withinRam i last s (finish u) = .next (u.advance 2) :=
  withinRam_eq_next.2 (.inr ⟨h, rfl⟩)

/-! ## The index register (R190 to R193) -/

theorem indexOverflow_iff {i : Word} {b : Byte} : indexOverflow i b = true ↔ i.toNat + b.toNat > 0xFFF :=
  decide_eq_true_iff

/-- The 12-bit wrap of the index sum (R191). -/
theorem indexSum_toNat (i : Word) (b : Byte) : (mask12 (i + wide b)).toNat = (i.toNat + b.toNat) % 0x1000 := by
  rw [mask12_add_toNat, wide_toNat]

theorem isFlag_setFlag (s : State) {b : Bool} {p : Prop} (h : b = true ↔ p) : IsFlag ((s.setFlag b).reg 15) p := by
  rw [State.reg_setFlag, if_pos rfl]
  exact isFlag_flagByte h

theorem State.setIndexFlag_changes (s : State) (a : Word) (b : Bool) :
    ChangesOnly (fun p => p = .index ∨ p = .reg 15) s ((s.setIndex a).setFlag b) :=
  ((s.setIndex_changes a).mono fun _ h => .inl h).trans ((State.setReg_changes _ vf _).mono fun _ h => .inr h)

/-- A glyph address is held in 16 bits without loss, so it is not clamped. -/
theorem glyphAddress_toNat {base stride g : Nat} (h : base + stride * 255 ≤ 0xFFF) (hg : g < 256) :
    (BitVec.ofNat 16 (base + stride * g)).toNat = base + stride * g := by
  have hle : stride * g ≤ stride * 255 := Nat.mul_le_mul_left _ (Nat.le_of_lt_succ hg)
  exact (BitVec.toNat_ofNat _ _).trans (Nat.mod_eq_of_lt (by omega))

/-! ## The three digits (R195) -/

theorem bcdHundreds_toNat (b : Byte) : (bcdHundreds b).toNat = b.toNat / 100 :=
  (BitVec.toNat_ofNat _ _).trans (Nat.mod_eq_of_lt (by omega))

theorem bcdTens_toNat (b : Byte) : (bcdTens b).toNat = b.toNat / 10 % 10 :=
  (BitVec.toNat_ofNat _ _).trans (Nat.mod_eq_of_lt (by omega))

theorem bcdOnes_toNat (b : Byte) : (bcdOnes b).toNat = b.toNat % 10 :=
  (BitVec.toNat_ofNat _ _).trans (Nat.mod_eq_of_lt (by omega))

/-- The three stores go to three different addresses, so each digit stays. -/
theorem storeBcd_digits (b : Byte) (s : State) :
    (storeBcd b s).byte (s.indexed 0) = bcdHundreds b ∧ (storeBcd b s).byte (s.indexed 1) = bcdTens b ∧
      (storeBcd b s).byte (s.indexed 2) = bcdOnes b := by
  simp [storeBcd, State.byte_setByte, State.indexed]

theorem storeBcd_changes_digits (b : Byte) (s : State) :
    ChangesOnly (fun p => p = .byte (s.indexed 0) ∨ p = .byte (s.indexed 1) ∨ p = .byte (s.indexed 2)) s (storeBcd b s) :=
  ((s.setByte_changes _ _).mono fun _ h => .inl h).trans <|
    ((State.setByte_changes _ _ _).mono fun _ h => .inr (.inl h)).trans
      ((State.setByte_changes _ _ _).mono fun _ h => .inr (.inr h))

/-! ## The transfers (R196 to R200) -/

section
variable {x : Reg} (s : State)

/-- After `FX65` each register up to `x` holds its byte (R197). -/
theorem loadBlock_reg_upTo {k : Reg} (h : k ≤ x) :
    (loadBlock (regsUpTo x) s).reg k = s.byte (s.indexed k.val) := by
  rw [loadBlock_reg, if_pos ((mem_regsUpTo x k).2 h), State.indexedByte]

/-- After `FX75` each flag up to `min(x, 7)` holds its register (R199). -/
theorem saveRpl_rpl_upTo {k : Fin 8} (h : k.val ≤ x.val) :
    (saveRpl (rplUpTo x) s).rpl[k.val] = s.reg (rplReg k) := by
  rw [saveRpl_rpl, if_pos ((mem_rplUpTo x k).2 h)]

/-- After `FX85` each register up to `min(x, 7)` holds its flag (R200). -/
theorem recallRpl_reg_upTo {k : Fin 8} (h : k.val ≤ x.val) :
    (recallRpl (rplUpTo x) s).reg (rplReg k) = s.rpl[k.val] := by
  have hk : (⟨(rplReg k).val, k.isLt⟩ : Fin 8) ∈ rplUpTo x := (mem_rplUpTo x k).2 h
  rw [recallRpl_reg]
  exact (dif_pos k.isLt).trans (if_pos hk)

end

end Sys2Proof.Machine

namespace Sys2Proof.Proofs

open Sys2Proof.Machine Sys2Proof.Claims

/-- Settles O31: the flag is written after the index, from the sum before the wrap. -/
theorem indexIsSetAndAdded : Obligations.IndexIsSetAndAdded := by
  constructor
  · exact fun nnn s => ⟨decode_formatA nnn, _, rfl, address_toNat nnn,
      (s.setIndex_changes _).advance_two nofun fun _ => Or.symm⟩
  · exact fun x s => ⟨decode_formatF x 0x1E, _, rfl, indexSum_toNat _ _, isFlag_setFlag _ indexOverflow_iff,
      (s.setIndexFlag_changes _ _).advance_two nofun fun _ h => or_assoc.1 h.symm⟩

/-- Settles O32: a glyph number is a byte, so no glyph address wraps. -/
theorem glyphAddresses : Obligations.GlyphAddresses := by
  refine fun x s => ⟨⟨decode_formatF x 0x29, _, rfl, ?_, (s.setIndex_changes _).advance_two nofun fun _ => Or.symm⟩,
    ⟨decode_formatF x 0x30, _, rfl, ?_, (s.setIndex_changes _).advance_two nofun fun _ => Or.symm⟩⟩
  · exact (glyphAddress_toNat (by decide) (glyphNumber_lt x s)).trans (Nat.zero_add _)
  · exact glyphAddress_toNat (by decide) (glyphNumber_lt x s)

/-- Settles O33: each digit fits a byte, and none of the three stores hits another's address. -/
theorem bcdStoresThreeDigits : Obligations.BcdStoresThreeDigits := by
  intro x s hlast
  obtain ⟨h0, h1, h2⟩ := storeBcd_digits (s.reg x) s
  exact ⟨decode_formatF x 0x33, _, withinRam_inside hlast,
    (congrArg BitVec.toNat h0).trans (bcdHundreds_toNat _), (congrArg BitVec.toNat h1).trans (bcdTens_toNat _),
    (congrArg BitVec.toNat h2).trans (bcdOnes_toNat _),
    (storeBcd_changes_digits _ s).advance_two nofun fun _ => id⟩

/-- Settles O34. -/
theorem blockStoreWritesRegisters : Obligations.BlockStoreWritesRegisters := fun x s hlast =>
  ⟨decode_formatF x 0x55, _, execStoreRegs_inside hlast, fun _ hk => storeBlock_byte_indexed s hk,
    (storeBlock_changes _ s).advance_two nofun
      fun _ => Or.imp_right fun ⟨k, hk, hp⟩ => ⟨k, (mem_regsUpTo x k).1 hk, hp⟩⟩

/-- Settles O35. -/
theorem blockLoadReadsRegisters : Obligations.BlockLoadReadsRegisters := fun x s hlast =>
  ⟨decode_formatF x 0x65, _, withinRam_inside hlast, fun _ hk => loadBlock_reg_upTo s hk,
    (loadBlock_changes _ s).advance_two nofun
      fun _ => Or.imp_right fun ⟨k, hk, hp⟩ => ⟨k, (mem_regsUpTo x k).1 hk, hp⟩⟩

/-- Settles O36 from O34 and O35: the store leaves `I` alone, so the load reads the addresses that were written. -/
theorem storeThenLoadRoundTrips : Obligations.StoreThenLoadRoundTrips := by
  intro x s t r u hlast hstore hi hmem hload k hk
  obtain ⟨-, t', ht', hbytes, -, hframe⟩ := blockStoreWritesRegisters x s hlast
  obtain rfl : t' = t := Host.Outcome.next.inj (ht'.symm.trans hstore)
  have hti : t'.i = s.i := hframe .index (by simp)
  have hri : ∀ j, r.indexed j = s.indexed j := fun j => by rw [State.indexed, hi, hti, State.indexed]
  obtain ⟨-, u', hu', hregs, -⟩ := blockLoadReadsRegisters x r (hri x.val ▸ hlast)
  obtain rfl : u' = u := Host.Outcome.next.inj (hu'.symm.trans hload)
  calc u'.reg k = r.byte (r.indexed k.val) := hregs k hk
    _ = t'.byte (s.indexed k.val) := by rw [hmem, hri]
    _ = s.reg k := hbytes k hk

/-- Settles O37: the transfers go over the eight flags, each with the register of its number, so `V[8]` and above are in
no transfer. -/
theorem rplTransfersClampToSeven : Obligations.RplTransfersClampToSeven := by
  refine fun x s => ⟨⟨decode_formatF x 0x75, _, rfl, fun _ hk => saveRpl_rpl_upTo s hk, ?_⟩,
    ⟨decode_formatF x 0x85, _, rfl, fun _ hk => recallRpl_reg_upTo s hk, ?_⟩⟩
  · exact (saveRpl_changes _ s).advance_two nofun
      fun _ => Or.imp_right fun ⟨k, hk, hp⟩ => ⟨k, (mem_rplUpTo x k).1 hk, hp⟩
  · exact (recallRpl_changes _ s).advance_two nofun
      fun _ => Or.imp_right fun ⟨k, hk, hp⟩ => ⟨rplReg k, Nat.le_of_lt_succ k.isLt, (mem_rplUpTo x k).1 hk, hp⟩

end Sys2Proof.Proofs
end

section
/-! PROOF. Timers and input (43_timers_input.md): a key skip on each side of 15, and the lowest pressed key. -/

namespace Sys2Proof.Machine

open Sys2Proof.Claims

/-! ## Key skips (R224, R225) -/

/-- A key skip on a number above 15 raises `KeyOutOfRange` before any change (D12). -/
theorem keySkip_faults {x : Reg} {s : State} (i : Instr) (d : Bool) (h : 15 < (s.reg x).toNat) :
    ∃ t r, keySkip i x d s = .next t ∧ t.fault = some r ∧ r.cause = .keyOutOfRange ∧ r.word = some (encode i) ∧
      r.addr = s.pc ∧ r.info.toNat = (s.reg x).toNat ∧ ChangesOnly (fun p => p = .fault) s t :=
  ⟨_, _, keySkip_eq_next.2 (.inr ⟨h, rfl⟩), rfl, rfl, rfl, rfl, wide_toNat _, s.setFault_changes _⟩

/-- On the number of a key, a key skip is a skip on whether that key is as asked. -/
theorem keySkip_of_key {x : Reg} {k : Fin 16} {s : State} (i : Instr) (d : Bool) (h : (s.reg x).toNat = k.val) :
    keySkip i x d s = skipIf (s.keyDown k == d) s :=
  keySkip_eq_next.2 (.inl ⟨k, h, rfl⟩)

/-- A key skip advances by 4 with the key as asked and by 2 with it otherwise. -/
theorem keySkip_advances {x : Reg} {k : Fin 16} {s : State} (i : Instr) (d : Bool) (h : (s.reg x).toNat = k.val) :
    ∃ t, keySkip i x d s = .next t ∧ (s.keyDown k = d → Advanced 4 s t) ∧ (s.keyDown k = !d → Advanced 2 s t) ∧
      ChangesOnly (fun p => p = .pc) s t := by
  rw [keySkip_of_key i d h]
  exact skipIf_advances s beq_iff_eq.2 fun hk => beq_eq_false_iff_ne.2 (hk ▸ Bool.not_ne_self d)

/-! ## The key wait (R226) -/

theorem State.lowestKey_eq_find? (s : State) : s.lowestKey = Fin.find? s.keyDown :=
  Fin.find?_eq_find?_finRange.symm

theorem State.lowestKey_eq_some {s : State} {k : Fin 16} :
    s.lowestKey = some k ↔ s.keyDown k = true ∧ ∀ j, j < k → s.keyDown j = false :=
  s.lowestKey_eq_find? ▸ Fin.find?_eq_some_iff

theorem State.lowestKey_eq_none {s : State} : s.lowestKey = none ↔ ∀ k, s.keyDown k = false :=
  s.lowestKey_eq_find? ▸ Fin.find?_eq_none_iff

theorem keyByte_toNat (k : Fin 16) : (keyByte k).toNat = k.val :=
  (BitVec.toNat_ofNat _ _).trans (Nat.mod_eq_of_lt (by omega))

end Sys2Proof.Machine

namespace Sys2Proof.Proofs

open Sys2Proof.Machine Sys2Proof.Claims

/-- Settles O10: both skips test the register's number before the key. -/
theorem keyNumberPastFifteenFaults : Obligations.KeyNumberPastFifteenFaults := by
  rintro x i s (rfl | rfl) h
  · exact keySkip_faults (.skp x) true h
  · exact keySkip_faults (.sknp x) false h

/-- Settles O39: the two skips ask for the key down and for the key up. -/
theorem keySkipsTestTheKey : Obligations.KeySkipsTestTheKey := fun x _ _ h =>
  ⟨⟨decode_formatE x 0x9E, keySkip_advances (.skp x) true h⟩,
   ⟨decode_formatE x 0xA1, keySkip_advances (.sknp x) false h⟩⟩

/-- Settles O40: with a key down the wait is one register write of the lowest key's number. -/
theorem waitForKeyTakesLowestKey : Obligations.WaitForKeyTakesLowestKey := by
  refine fun x s => ⟨decode_formatF x 0x0A, fun k hk hlow => ?_, fun hnone => ?_⟩
  · obtain ⟨t, ht, hreg, hpc, hc⟩ := writeReg_spec x (keyByte k) s
    have hlowest : s.lowestKey = some k := State.lowestKey_eq_some.2 ⟨hk, hlow⟩
    exact ⟨t, execLdVxK_eq_next.2 (.inl ⟨k, hlowest, ht⟩), hreg ▸ keyByte_toNat k, hpc, hc⟩
  · exact execLdVxK_eq_next.2 (.inr ⟨State.lowestKey_eq_none.2 hnone, rfl⟩)

/-- Settles O38: FX07 is one register write, and FX15 and FX18 are one timer write each. -/
theorem timersMoveWithRegisters : Obligations.TimersMoveWithRegisters := fun x s =>
  ⟨⟨decode_formatF x 0x07, writeReg_spec x s.dt s⟩,
   ⟨decode_formatF x 0x15, _, rfl, rfl, (s.setDt_changes _).advance_two nofun fun _ => Or.symm⟩,
   ⟨decode_formatF x 0x18, _, rfl, rfl, (s.setSt_changes _).advance_two nofun fun _ => Or.symm⟩⟩

end Sys2Proof.Proofs
end

section
/-! PROOF. Display, mode and exit (44_display.md): what each screen instruction leaves of the buffer, and a sprite draw as
an XOR of the cells its set bits fall on. -/

namespace Sys2Proof.Machine

open Sys2Proof.Claims

/-! ## The shared ends: a new buffer, and a new mode (R240 to R245) -/

/-- A screen instruction sets `DRAW` and changes no part but that, the cells and `pc` (D20). -/
theorem redraw_frame (s : State) (fb : FrameBuffer) :
    (((s.setFb fb).setDraw true).advance 2).draw = true ∧ Advanced 2 s (((s.setFb fb).setDraw true).advance 2) ∧
      ChangesOnly (fun p => p = .pc ∨ p = .draw ∨ ∃ c, p = .cell c) s (((s.setFb fb).setDraw true).advance 2) :=
  ⟨rfl, (redraw_changes s fb).advance_two nofun fun _ => id⟩

theorem setMode_spec (s : State) (m : Mode) :
    ∃ t, finish (s.setMode m) = .next t ∧ t.mode = m ∧ Advanced 2 s t ∧
      ChangesOnly (fun p => p = .mode ∨ p = .pc) s t :=
  ⟨_, rfl, rfl, (s.setMode_changes m).advance_two nofun fun _ => Or.symm⟩

/-- A cell with a bound on the cell it comes from: inside the bound it is that cell, outside it is unset. -/
theorem lit_of_bounded {a b : Bool} {p q : Prop} [Decidable p] (h : a = (decide p && b)) (hq : q → ¬ p) :
    (p → a = b) ∧ (q → a = false) :=
  ⟨fun hp => by rw [h, decide_eq_true hp, Bool.true_and], fun h' => by rw [h, decide_eq_false (hq h'), Bool.false_and]⟩

/-! ## The sprite (R250 to R252) -/

theorem State.spriteWidth_eq_rowBytes (s : State) (n : Nat) : s.spriteWidth n = 8 * rowBytes s.mode n := by
  rw [← s.bytesPerRow_eq_rowBytes, State.spriteWidth, State.bytesPerRow]
  split <;> rfl

theorem State.wMode_eq_areaW (s : State) : s.wMode = areaW s := by
  unfold State.wMode areaW
  cases s.mode <;> rfl

theorem State.hMode_eq_areaH (s : State) : s.hMode = areaH s := by
  unfold State.hMode areaH
  cases s.mode <;> rfl

/-- Bit `c` from the left of one byte of a sprite's row. -/
theorem getMsbD_byte (b : Byte) {c : Nat} (hc : c < 8) : b.getMsbD c = b.getLsbD (7 - c) := by
  simp [BitVec.getMsbD, hc]

/-- Bit `c` from the left of a row lies in the row's byte `c / 8`, for rows of one byte and of two (R251, R252, D18). -/
theorem State.spriteBit_eq (s : State) {n c : Nat} (r : Nat) (hc : c < 8 * rowBytes s.mode n) :
    s.spriteBit n r c = (s.byte (s.i.toNat + rowBytes s.mode n * r + c / 8)).getLsbD (7 - c % 8) := by
  rw [← getMsbD_byte _ (Nat.mod_lt c (by decide))]
  unfold rowBytes at hc ⊢
  unfold State.spriteBit State.wideSprite bigEndian
  by_cases hw : s.mode = .super ∧ n = 0
  · rw [if_pos hw] at hc ⊢
    rw [if_pos (decide_eq_true hw), BitVec.getMsbD_append]
    by_cases h8 : 8 ≤ c
    · rw [if_pos h8, show c / 8 = 1 by omega, show c % 8 = c - 8 by omega]
      rfl
    · rw [if_neg h8, show c / 8 = 0 by omega, show c % 8 = c by omega]
      rfl
  · rw [if_neg hw] at hc ⊢
    rw [if_neg (by simpa using hw), Nat.div_eq_of_lt hc, Nat.mod_eq_of_lt hc, Nat.one_mul]
    rfl

/-- The cells a draw flips are those the statement says a set bit falls on. -/
theorem spriteHits_iff (s : State) (x y : Reg) (n : Nat) (p : Pixel) :
    SpriteHits s x y n p ↔ p ∈ s.spriteCells (s.reg x) (s.reg y) n := by
  rw [State.mem_spriteCells, State.spriteWidth_eq_rowBytes, SpriteHits, ← s.wMode_eq_areaW, ← s.hMode_eq_areaH]
  refine exists_congr fun r => and_congr_right fun _ => exists_congr fun c => and_congr_right fun hc => ?_
  rw [s.spriteBit_eq r hc, eq_comm (a := p)]
  rfl

/-- A sprite falls on the same cells after a draw, which writes neither `I`, the mode, RAM nor a coordinate register that
is not `VF`. -/
theorem spriteHits_of_frame {s t : State} {x y : Reg}
    (h : ChangesOnly (fun p => p = .pc ∨ p = .reg 15 ∨ p = .draw ∨ ∃ c, p = .cell c) s t) (hx : x ≠ 15) (hy : y ≠ 15)
    (n : Nat) (p : Pixel) : SpriteHits t x y n p ↔ SpriteHits s x y n p := by
  have hi : t.i = s.i := h .index (by simp)
  have hmode : t.mode = s.mode := h .mode (by simp)
  have hparams : t.params = s.params := h .params (by simp)
  have hvx : t.reg x = s.reg x := h (.reg x) (by simp [hx])
  have hvy : t.reg y = s.reg y := h (.reg y) (by simp [hy])
  have hbyte : ∀ a, t.byte a = s.byte a := fun a => h (.byte a) (by simp)
  simp only [SpriteHits, areaW, areaH, hi, hmode, hparams, hvx, hvy, hbyte]

/-! ## The draw (R250 to R254) -/

/-- A draw either raises `MemOutOfRange` before any change or XORs its cells onto the buffer (R70, R250). -/
theorem exec_drw_eq_next {x y : Reg} {n : Nat} {s t : State} :
    exec (.drw x y n) s = .next t ↔
      (0xFFF < s.i.toNat + height n * rowBytes s.mode n - 1 ∧
        s.setFault ⟨.memOutOfRange, some (encode (.drw x y n)), s.pc, 0x1000⟩ = t) ∨
      (s.i.toNat + height n * rowBytes s.mode n - 1 ≤ 0xFFF ∧
        (s.drawn (blit s.fb (s.spriteCells (s.reg x) (s.reg y) n))).advance 2 = t) := by
  rw [← s.indexed_sprite_last, ← finish_eq_next]
  exact withinRam_eq_next

/-- A draw turns a cell on exactly where a listed cell was unset (R254). -/
theorem blit_drew_iff {fb : FrameBuffer} {cells : List Pixel} (h : cells.Nodup) :
    (blit fb cells).drew = true ↔ ∃ c, fb.lit c = false ∧ (blit fb cells).fb.lit c = true := by
  obtain ⟨hlit, -, hdrew⟩ := blit_spec fb cells h
  rw [hdrew]
  refine exists_congr fun c => ⟨fun ⟨hc, hoff⟩ => ⟨hoff, ?_⟩, fun ⟨hoff, hon⟩ => ⟨?_, hoff⟩⟩
  · rw [hlit, hoff, decide_eq_true hc]; rfl
  · rwa [hlit, hoff, Bool.false_bne, decide_eq_true_eq] at hon

/-! ## The reset (R42, R63, R300) -/

/-- A restart gives the state of first load with the ROM that was cached, whatever the state it starts from. -/
theorem firstLoad_restart (s : State) : FirstLoad s.romCache s.restart := by
  obtain ⟨hreg, hi, hpc, hstack, hsp, hdt, hst, hfb, hmode, hkey, hrpl, hdraw, -, hfault, -⟩ := firstLoad_reset
  exact ⟨hreg, hi, hpc, hstack, hsp, hdt, hst, hfb, hmode, hkey, hrpl, hdraw, rfl, hfault,
    fun a _ => romCells_read_firstByte s.params s.romCache a⟩

end Sys2Proof.Machine

namespace Sys2Proof.Proofs

open Sys2Proof.Machine Sys2Proof.Claims

/-- Settles O42: a cell of row `y` comes from row `y - n`, if there is one. -/
theorem scrollDownMovesRows : Obligations.ScrollDownMovesRows := fun n s hn =>
  ⟨decode_formatFN hn, _, rfl, fun x y _ hy => lit_of_bounded (s.fb.lit_down n x y hy) Nat.not_le_of_lt,
    redraw_frame s _⟩

/-- Settles O43: a cell comes from four columns to its left or right, if the canvas has one there. -/
theorem scrollSidewaysMovesColumns : Obligations.ScrollSidewaysMovesColumns := fun s =>
  ⟨⟨decode_encode (i := .scr) rfl, _, rfl,
      fun x y hx _ => lit_of_bounded (s.fb.lit_right _ 4 x y hx) Nat.not_le_of_lt, redraw_frame s _⟩,
   ⟨decode_encode (i := .scl) rfl, _, rfl,
      fun x y _ _ => lit_of_bounded (s.fb.lit_left _ 4 x y) Nat.not_lt_of_le, redraw_frame s _⟩⟩

/-- Settles O45: the cells the draw flips are distinct, so each is flipped once. -/
theorem drawXorsSprite : Obligations.DrawXorsSprite := by
  intro x y n s hn hlast
  have hnodup := s.spriteCells_nodup (s.reg x) (s.reg y) hn
  obtain ⟨hlit, hhit, hdrew⟩ := blit_spec s.fb _ hnodup
  simp only [spriteHits_iff]
  refine ⟨decode_encode (i := .drw x y n) (decide_eq_true hn), _, exec_drw_eq_next.2 (.inr ⟨hlast, rfl⟩),
    fun c hc => ?_, isFlag_setFlag _ hhit, ?_, (s.drawn_changes _ hnodup).advance_two ?_ ?_⟩
  · exact (hlit c).trans (by rw [decide_eq_true hc, Bool.bne_true])
  · exact (Bool.or_eq_true _ _).to_iff.trans (or_congr_right hdrew)
  · simp
  · rintro p (hp | ⟨c, hc, hp⟩ | hp | hp)
    · exact .inl hp
    · exact .inr (.inr (.inr ⟨c, hp, hc⟩))
    · exact .inr (.inl hp)
    · exact .inr (.inr (.inl hp))

/-- Settles O46: a draw that faults changes neither cells nor `DRAW`. -/
theorem drawFlagOnUnsetToSet : Obligations.DrawFlagOnUnsetToSet := by
  intro x y n s t hn h
  obtain ⟨-, rfl⟩ | ⟨-, rfl⟩ := exec_drw_eq_next.1 h
  · exact ⟨fun ⟨_, hoff, hon⟩ => Bool.noConfusion (hoff.symm.trans hon), fun _ => rfl⟩
  · have hdrew := blit_drew_iff (fb := s.fb) (s.spriteCells_nodup (s.reg x) (s.reg y) hn)
    refine ⟨fun hc => ?_, fun hc => ?_⟩
    · exact (Bool.or_eq_true _ _).to_iff.2 (.inr (hdrew.2 hc))
    · show (s.draw || _) = s.draw
      rw [Bool.eq_false_iff.2 (mt hdrew.1 hc), Bool.or_false]

/-- Settles O47 from O45 twice: the first draw moves neither the sprite nor its coordinates, so both hit the same cells. -/
theorem drawTwiceRestoresScreen : Obligations.DrawTwiceRestoresScreen := by
  intro x y n s t u hn hx hy hlast ht hu
  obtain ⟨-, t', ht', hflip, hvf, -, -, hframe⟩ := drawXorsSprite x y n s hn hlast
  obtain rfl : t' = t := Host.Outcome.next.inj (ht'.symm.trans ht)
  have hhits := spriteHits_of_frame
    (hframe.mono fun _ => Or.imp_right (Or.imp_right (Or.imp_right fun ⟨c, hc, _⟩ => ⟨c, hc⟩))) hx hy n
  have hlast' : t'.i.toNat + height n * rowBytes t'.mode n - 1 ≤ 0xFFF := by
    rw [hframe .index (by simp), hframe .mode (by simp)]
    exact hlast
  obtain ⟨-, u', hu', hflip', hvf', -, -, hframe'⟩ := drawXorsSprite x y n t' hn hlast'
  obtain rfl : u' = u := Host.Outcome.next.inj (hu'.symm.trans hu)
  simp only [hhits] at hflip' hvf' hframe'
  refine ⟨fun c => ?_, fun hno ⟨c, hc⟩ => hvf'.1 ⟨c, hc, ?_⟩⟩
  · by_cases hc : SpriteHits s x y n c
    · rw [hflip' c hc, hflip c hc, Bool.not_not]
    · exact (hframe' (.cell c) (by simp [hc])).trans (hframe (.cell c) (by simp [hc]))
  · have hoff : s.fb.lit c ≠ true := fun hon => absurd (hno.symm.trans (hvf.1 ⟨c, hc, hon⟩)) (by decide)
    rw [hflip c hc, Bool.eq_false_iff.2 hoff]
    rfl

/-- Settles O48: EXIT is the restart, which keeps each of the model's own fields. -/
theorem exitResetsTheCore : Obligations.ExitResetsTheCore := by
  refine ⟨decode_encode (i := .exit) rfl, fun s => ⟨s.restart, rfl, firstLoad_restart s, fun p hp => ?_⟩⟩
  refine s.restart_changes p (not_not.2 ?_)
  cases p with
  | params | rngDraws | schedule | frameTaken | gateSampled => simp
  | _ => exact absurd hp Bool.false_ne_true

/-- Settles O41: the new buffer lists no cell. -/
theorem clearScreenClearsAll : Obligations.ClearScreenClearsAll := fun s =>
  ⟨decode_encode (i := .cls) rfl, _, rfl, FrameBuffer.lit_nil, redraw_frame s []⟩

/-- Settles O44: a mode switch writes `MODE` alone. -/
theorem modeSwitchKeepsScreen : Obligations.ModeSwitchKeepsScreen := fun s =>
  ⟨⟨decode_encode (i := .low) rfl, setMode_spec s .standard⟩, ⟨decode_encode (i := .high) rfl, setMode_spec s .super⟩⟩

end Sys2Proof.Proofs
end

section
/-! PROOF. Events and faults (60_exceptions.md): which faults an instruction can leave, what each event leaves, and the
order in which the events come. -/

namespace Sys2Proof.Machine

/-! ## Every instruction answers a next state (R272, R273) -/

theorem withinRam_answers {s : State} (i : Instr) (last : Nat) {body : Result} (h : ∃ t, body = .next t) :
    ∃ t, withinRam i last s body = .next t := by
  obtain ⟨t, ht⟩ := h
  by_cases hl : last ≤ 0xFFF
  · exact ⟨t, withinRam_eq_next.2 (.inr ⟨hl, ht⟩)⟩
  · exact ⟨_, withinRam_eq_next.2 (.inl ⟨Nat.lt_of_not_le hl, rfl⟩)⟩

theorem keySkip_answers (i : Instr) (x : Reg) (d : Bool) (s : State) : ∃ t, keySkip i x d s = .next t := by
  by_cases hx : (s.reg x).toNat < 16
  · exact ⟨_, keySkip_of_key (k := ⟨_, hx⟩) i d rfl⟩
  · exact ⟨_, keySkip_eq_next.2 (.inr ⟨Nat.le_of_not_lt hx, rfl⟩)⟩

theorem execLdVxK_answers (x : Reg) (s : State) : ∃ t, execLdVxK x s = .next t := by
  cases hk : s.lowestKey with
  | none => exact ⟨s, execLdVxK_eq_next.2 (.inr ⟨hk, rfl⟩)⟩
  | some k => exact ⟨_, execLdVxK_eq_next.2 (.inl ⟨k, hk, rfl⟩)⟩

theorem exec_answers (i : Instr) (s : State) : ∃ t, exec i s = .next t := by
  cases i with
  | drw | ldB | storeRegs | loadRegs => exact withinRam_answers _ _ ⟨_, rfl⟩
  | skp | sknp => exact keySkip_answers _ _ _ s
  | ldVxK x => exact execLdVxK_answers x s
  | _ => exact ⟨_, rfl⟩

/-! ## The faults an instruction raises (R271, R272) -/

/-- The state is left with no fault, or as it was but for a fault that names the instruction's word and its pc. -/
def FaultsPrecisely (i : Instr) (s t : State) : Prop :=
  t.fault = none ∨ ∃ cause info, s.setFault ⟨cause, some (encode i), s.pc, info⟩ = t

namespace FaultsPrecisely
variable {i : Instr} {s t u : State}

theorem finish (h : Machine.finish u = .next t) (hf : u.fault = none) : FaultsPrecisely i s t :=
  .inl (finish_eq_next.1 h ▸ hf)

theorem skipIf {c : Bool} (h : Machine.skipIf c u = .next t) (hf : u.fault = none) : FaultsPrecisely i s t :=
  .inl (skipIf_eq_next.1 h ▸ hf)

theorem withinRam {last : Nat} (h : Machine.withinRam i last s (Machine.finish u) = .next t) (hf : u.fault = none) :
    FaultsPrecisely i s t := by
  obtain ⟨-, rfl⟩ | ⟨-, hb⟩ := withinRam_eq_next.1 h
  · exact .inr ⟨_, _, rfl⟩
  · exact finish hb hf

theorem keySkip {x : Reg} {d : Bool} (h : Machine.keySkip i x d s = .next t) (hf : s.fault = none) :
    FaultsPrecisely i s t := by
  obtain ⟨k, -, rfl⟩ | ⟨-, rfl⟩ := keySkip_eq_next.1 h
  · exact .inl hf
  · exact .inr ⟨_, _, rfl⟩

end FaultsPrecisely

theorem exec_faults_precisely {i : Instr} {s t : State} (hf : s.fault = none) (h : exec i s = .next t) :
    FaultsPrecisely i s t := by
  cases i with
  | jp | jpV0 | call | ret =>
    obtain rfl := Host.Outcome.next.inj h
    exact .inl hf
  | exit =>
    obtain rfl := Host.Outcome.next.inj h
    exact .inl rfl
  | ldVxK =>
    obtain ⟨k, -, h⟩ | ⟨-, rfl⟩ := execLdVxK_eq_next.1 h
    · exact .finish h hf
    · exact .inl hf
  | seImm | sneImm | seReg | sneReg => exact .skipIf h hf
  | skp | sknp => exact .keySkip h hf
  | drw | ldB => exact .withinRam h hf
  | storeRegs => exact .withinRam h ((storeBlock_changes _ s .fault (by simp)).trans hf)
  | loadRegs => exact .withinRam h ((loadBlock_changes _ s .fault (by simp)).trans hf)
  | storeRpl => exact .finish h ((saveRpl_changes _ s .fault (by simp)).trans hf)
  | loadRpl => exact .finish h ((recallRpl_changes _ s .fault (by simp)).trans hf)
  | _ => exact .finish h hf

/-! ## A faulted core (R272) -/

theorem unlessFaulted_of_fault {s : State} {f : FaultRecord} (h : s.fault = some f) (r : Result) :
    unlessFaulted s r = .fault (.stopped f) := by
  rw [unlessFaulted, h]

/-- The events that a faulted core takes leave its fault alone. -/
theorem step_keeps_fault {s t : State} {f : FaultRecord} (hf : s.fault = some f) (h : step s = .next t) :
    t.fault = some f := by
  obtain ⟨-, hn, -⟩ | ⟨-, hn, -⟩ | ⟨k, -, rfl⟩ | ⟨-, -, rfl⟩ | ⟨-, hn, -⟩ := step_eq_next.1 h
  · exact nomatch hf.symm.trans hn
  · exact nomatch hf.symm.trans hn
  · exact hf
  · exact hf
  · exact nomatch hf.symm.trans hn

/-! ## One step and the schedule (R270) -/

theorem not_writes_schedule (i : Instr) : ¬ writes i .schedule := by
  cases i <;> simp [writes]

theorem cycle_schedule {s t : State} (h : cycle s = .next t) : t.schedule = s.schedule := by
  refine cycle_changes h .schedule fun hp => ?_
  obtain ⟨i, -, hp⟩ := hp.resolve_left nofun
  exact not_writes_schedule i ((hp.resolve_left nofun).resolve_left nofun)

/-- Every step takes the event due from the schedule. -/
theorem step_schedule {s t : State} (h : step s = .next t) : t.schedule = s.schedule.rest := by
  obtain ⟨-, -, hc⟩ | ⟨-, -, rfl⟩ | ⟨k, -, rfl⟩ | ⟨-, -, rfl⟩ | ⟨-, -, rfl⟩ := step_eq_next.1 h
  · exact cycle_schedule hc
  all_goals rfl

theorem step_changes_of_due {s t : State} {e : Event} (he : s.dueEvent = e) (h : step s = .next t) :
    ChangesOnly (fun p => p = .schedule ∨ eventWrites s.fetchWord e p) s t := he ▸ step_changes h

/-! ## The order of the events (R270) -/

theorem Schedule.due_rest_iterate_first (first : List Event) (o : Onward) (k : Nat) (h : k < first.length) :
    (Schedule.rest^[k] ⟨first, o⟩).due = first[k] := by
  induction first generalizing k with
  | nil => cases h
  | cons e first ih =>
    cases k with
    | zero => rfl
    | succ k => exact ih k (Nat.lt_of_succ_lt_succ h)

/-- After the first events the schedule gives those of `onward`. -/
theorem Schedule.due_rest_iterate_onward (first : List Event) (o : Onward) (k : Nat) :
    (Schedule.rest^[first.length + k] ⟨first, o⟩).due = (Onward.rest^[k] o).due := by
  rw [Schedule.rest_iterate_first, Schedule.rest_iterate_onward]
  rfl

/-! ## Ticks (R280) -/

theorem countDown_toNat (b : Byte) : (countDown b).toNat = b.toNat - 1 := by
  unfold countDown
  split
  next h => rw [h]; rfl
  next h =>
    have hpos : 1 ≤ b.toNat := Nat.pos_of_ne_zero fun h0 => h (BitVec.eq_of_toNat_eq h0)
    exact BitVec.toNat_sub_of_le hpos

theorem tick_dt (s : State) : (tick s).dt.toNat = s.dt.toNat - 1 := countDown_toNat s.dt

theorem tick_st (s : State) : (tick s).st.toNat = s.st.toNat - 1 := countDown_toNat s.st

/-- A number that each step of `f` lowers by one, clamped at zero, is lowered by `k` in `k` steps. -/
theorem iterate_sub_one {α : Type} {f : α → α} {n : α → Nat} (h : ∀ a, n (f a) = n a - 1) (k : Nat) (a : α) :
    n (f^[k] a) = n a - k :=
  have hpred : Function.Semiconj n f Nat.pred := h
  (hpred.iterate_right k a).trans (Nat.pred_iterate (n a) k)

theorem ChangesOnly.iterate {ps : Part → Prop} {f : State → State} (h : ∀ s, ChangesOnly ps s (f s)) (k : Nat)
    (s : State) : ChangesOnly ps s (f^[k] s) := by
  induction k with
  | zero => exact .refl _ _
  | succ k ih =>
    rw [Function.iterate_succ_apply']
    exact ih.trans (h _)

theorem State.takeEvent_always {s : State} {e : Event} (h : s.schedule = .always e) : s.takeEvent = s := by
  rw [State.takeEvent, h, Schedule.rest_always, ← h]
  rfl

theorem run_succ_of_step {M : Host.Core} {s t : M.State} (h : M.step s = .next t) (k : Nat) :
    M.run (k + 1) s = M.run k t := by
  rw [Host.Core.run, h]

/-- A core that gets nothing but `Tick` runs for ever. -/
theorem run_always_tick {s : State} (hs : s.schedule = .always .tick) (hf : s.fault = none) (k : Nat) :
    Sys2Proof.core.run k s = .next (tick^[k] s) := by
  induction k generalizing s with
  | zero => rfl
  | succ k ih =>
    have he : s.dueEvent = .tick := congrArg Schedule.due hs
    have hstep : Sys2Proof.core.step s = .next (tick s) :=
      step_eq_next.2 (.inr (.inl ⟨he, hf, by rw [State.takeEvent_always hs]⟩))
    exact (run_succ_of_step hstep k).trans (ih (s := tick s) hs hf)

end Sys2Proof.Machine

namespace Sys2Proof.Proofs

open Sys2Proof.Machine Sys2Proof.Claims

/-- Settles O11: a state left with a fault is the state before but for the record. -/
theorem faultsArePrecise : Obligations.FaultsArePrecise := by
  intro i s t r h hs ht
  obtain hn | ⟨cause, info, rfl⟩ := exec_faults_precisely hs h
  · exact nomatch ht.symm.trans hn
  · obtain rfl := Option.some.inj ht
    exact ⟨rfl, rfl, s.setFault_changes _⟩

/-- Settles O12: the three events ask for the fault first, and the other two leave it alone. -/
theorem faultStopsTheCore : Obligations.FaultStopsTheCore := by
  refine fun s r hf => ⟨fun he => ?_, fun t => step_keeps_fault hf⟩
  have hf' : s.takeEvent.fault = some r := hf
  obtain he | he | he := he
  all_goals
    rw [step, he]
    exact unlessFaulted_of_fault hf' _

/-- Settles O13. -/
theorem everyInstructionAnswersNext : Obligations.EveryInstructionAnswersNext := exec_answers

/-- Settles O16: the frame is taken from the state before `DRAW` is cleared. -/
theorem drawAckTakesFrame : Obligations.DrawAckTakesFrame := by
  refine fun s he => ⟨fun hd => ?_, fun hd => ?_⟩
  · have hstep : step s = .next (drawAck s.takeEvent) :=
      step_eq_next.2 (.inr (.inr (.inr (.inl ⟨he, hd, rfl⟩))))
    refine ⟨_, s.frame, hstep, rfl, rfl, fun _ => rfl, rfl, step_schedule hstep,
      (step_changes_of_due he hstep).mono ?_⟩
    rintro _ (hp | hp | hp)
    · exact .inr (.inr hp)
    · exact .inr (.inl hp)
    · exact .inl hp
  · rw [step, he]
    exact if_neg (Bool.eq_false_iff.1 hd)

/-- Settles O60, by what any number of events leaves of each form of schedule, and any number of ticks of the state. -/
theorem hostEventsComeInOrder : Obligations.HostEventsComeInOrder := by
  refine ⟨fun _ _ => step_schedule, fun es => Schedule.due_rest_iterate_first es.first es.onward,
    fun first e es k => ?_, fun first n k => ?_, fun s k hs hf => ?_⟩
  · rw [Schedule.due_rest_iterate_onward, Onward.due_rest_iterate_repeating]
  · rw [Schedule.due_rest_iterate_onward, Onward.rest_iterate_free]
    rfl
  · exact ⟨_, run_always_tick hs hf k, iterate_sub_one (n := (·.dt.toNat)) tick_dt k s,
      iterate_sub_one (n := (·.st.toNat)) tick_st k s, .iterate tick_changes k s⟩

/-- Settles O6. -/
theorem stepRunsDecodedInstruction : Obligations.StepRunsDecodedInstruction := fun _ _ => step_of_decode

/-- Settles O14. -/
theorem tickCountsDown : Obligations.TickCountsDown := by
  intro s he hf
  have hstep : step s = .next (tick s.takeEvent) := step_eq_next.2 (.inr (.inl ⟨he, hf, rfl⟩))
  refine ⟨_, hstep, tick_dt _, tick_st _, rfl, step_schedule hstep, (step_changes_of_due he hstep).mono ?_⟩
  rintro _ (hp | hp | hp | hp)
  · exact .inr (.inr (.inr hp))
  · exact .inl hp
  · exact .inr (.inl hp)
  · exact .inr (.inr (.inl hp))

/-- Settles O15. -/
theorem keySnapshotReplacesKeys : Obligations.KeySnapshotReplacesKeys := by
  intro s k he
  have hstep : step s = .next (s.takeEvent.setKey k) := step_eq_next.2 (.inr (.inr (.inl ⟨k, he, rfl⟩)))
  exact ⟨_, hstep, fun _ => rfl, step_schedule hstep, (step_changes_of_due he hstep).mono fun _ => Or.symm⟩

/-- Settles O17: both are the restart. -/
theorem resetRequestIsExit : Obligations.ResetRequestIsExit := by
  intro s he hf
  have hstep : step s = .next s.takeEvent.restart := step_eq_next.2 (.inr (.inr (.inr (.inr ⟨he, hf, rfl⟩))))
  exact ⟨hstep, hstep⟩

end Sys2Proof.Proofs
end

section
/-! PROOF. Reset, load and hazards (70_reset_and_hazards.md): what a reset forgets, the state a ROM load builds, and the
cycle of a parked state. -/

namespace Sys2Proof.Machine

open Sys2Proof.Claims

/-! ## The reset (R300) -/

theorem State.restart_byte (s : State) (a : Nat) :
    s.restart.byte a = (romCells s.params s.romCache).read s.params a := rfl

/-- A restart reads the ROM cache and the parameters alone; beside them it hands on only the model's own fields (log 11). -/
theorem State.restart_same {s r : State} (hrom : s.romCache = r.romCache) (hparams : s.params = r.params) {p : Part}
    (hp : modelPart p = false) : p.same s.restart r.restart := by
  cases p with
  | params | rngDraws | schedule | frameTaken | gateSampled => exact nomatch hp
  | romCache => exact hrom.symm
  | byte a =>
    show r.restart.byte a = s.restart.byte a
    rw [restart_byte, restart_byte, hrom, hparams]
  | _ => rfl

/-! ## The ROM load (R303) -/

theorem loadRom_of_le {rom : List Byte} (h : rom.length ≤ Config.romMax) (s : State) :
    loadRom rom s = .next { s with romCache := rom }.restart := if_pos h

theorem loadRom_of_lt {rom : List Byte} (h : Config.romMax < rom.length) (s : State) :
    loadRom rom s = .refused (.romTooLarge rom.length) := if_neg (Nat.not_le_of_lt h)

theorem Inv.setRom {s : State} (h : Inv s) {rom : List Byte} (hrom : rom.length ≤ Config.romMax) :
    Inv { s with romCache := rom } := { h with rom := hrom }

/-- The canonical forms of the reset state list nothing, so they hold under any parameters. -/
theorem inv_reset_params (p : Params) : Inv { State.reset with params := p } :=
  { inv_reset with
    mem := Memory.wf_nil p
    fb := FrameBuffer.wf_nil p.canvasW
    frame := nofun }

/-! ## Parked states (R308) -/

theorem decode_of_fieldOp_one {w : Word} (h : fieldOp w = 0x1#4) : decode w = some (.jp (fieldNNN w)) :=
  (congrArg decode (formatFA_of_fieldOp h)).symm.trans (decode_format1 _)

/-- A parked state has no fault, its word in RAM, and that word is a jump to its own address. -/
theorem State.fetch_of_parked {s : State} (h : s.parked = true) :
    s.fault = none ∧ s.pc.toNat + 1 ≤ 0xFFF ∧
      ∃ nnn, decode s.fetchWord = some (.jp nnn) ∧ address nnn = s.pc := by
  simp only [State.parked, State.running, Bool.and_eq_true, decide_eq_true_eq, Option.isNone_iff_eq_none] at h
  obtain ⟨⟨hf, hpc⟩, hop, haddr⟩ := h
  exact ⟨hf, hpc, _, decode_of_fieldOp_one hop, haddr⟩

theorem State.setPc_self (s : State) : s.setPc s.pc = s := rfl

/-- A jump to the address of the jump itself leaves the state as it was (R120). -/
theorem exec_jp_self {nnn : BitVec 12} {s : State} (h : address nnn = s.pc) : exec (.jp nnn) s = .next s :=
  congrArg Host.Outcome.next (h ▸ s.setPc_self)

end Sys2Proof.Machine

namespace Sys2Proof.Proofs

open Sys2Proof.Machine Sys2Proof.Claims

/-- Settles O49: both resets are the restart. -/
theorem resetForgetsTheState : Obligations.ResetForgetsTheState := by
  intro s r t u hrom hparams ht hu p hp
  obtain rfl := Host.Outcome.next.inj ht
  obtain rfl := Host.Outcome.next.inj hu
  exact State.restart_same hrom hparams hp

/-- Settles O50: a load is a restart with the ROM cached, if the ROM fits. -/
theorem romLoadBuildsCore : Obligations.RomLoadBuildsCore := fun _ p =>
  ⟨fun h => ⟨_, loadRom_of_le h _, firstLoad_restart _, rfl, ((inv_reset_params p).setRom h).restart⟩,
   fun h => loadRom_of_lt h _⟩

/-- Settles O59: the cycle executes the jump, which sets `pc` to what it is. -/
theorem parkedStateStays : Obligations.ParkedStateStays := by
  intro s hs he
  obtain ⟨hf, hpc, nnn, hd, haddr⟩ := State.fetch_of_parked hs
  rw [step_of_decode he hf hpc hd]
  exact exec_jp_self haddr

end Sys2Proof.Proofs
end
